-- ==== Sys2Proof/Word.lean ====
section
/-! DEFINITION. The word types of the core and the two ports the words travel on.
spec/00_scope.md R10 (notation), spec/30_encoding.md R52, R54, R59. -/

namespace Sys2Proof

/-- `u8` of R10: a byte of the wire stream, of ring storage, or an `ARG` field. -/
abbrev Byte := BitVec 8

/-- A command word `CMD[15:0]` (R54), and the 16-bit two's-complement pattern of an `i16` (R10). -/
abbrev Word16 := BitVec 16

/-- `u32` of R10: the accumulator, a diagnostic counter, the status word, a response's `DATA`. -/
abbrev Word32 := BitVec 32

/-- A response word `RSP[39:0]` (R59). -/
abbrev Word40 := BitVec 40

/-- The two command ports (R52): the producer port takes PUSH, the control port every other command. -/
inductive Port where
  | producer
  | control
  deriving DecidableEq, Repr

end Sys2Proof
end

