-- ==== Sys2Proof/Config.lean ====
section
/-! DEFINITION. What one core instance fixes (spec/00_scope.md R4, R7) and the one free value of the model: what a
ring-storage slot holds that nothing has written since reset (spec/10_state.md R17, R32,
spec/93_implementation_defined.md V1). -/

namespace Sys2Proof

/-- `DRAIN_MODE` (R7, R90). -/
inductive DrainMode where
  /-- `NB`, the non-blocking drain: the pump runs only while a DRAIN is in progress. -/
  | nb
  /-- `COOP`, the cooperative drain: the pump runs from reset and yields when it finds the buffer empty. -/
  | coop
  deriving DecidableEq, Repr

/-- `SYNC_POLICY` (R7, R78): what a SYNC-valued byte inside a frame does. -/
inductive SyncPolicy where
  | literal
  | resync
  deriving DecidableEq, Repr

/-- The parameters of one instance (R7). They are fixed per instance and no command writes them (R15).
`YIELD_MS` is nominal and no rule reads it (R96, R125). The numbers are the spec's, which R9 calls unaudited
(assumption 14, UNVERIFIED, unsafe). -/
structure Config where
  cap        : Nat
  drainMode  : DrainMode
  syncPolicy : SyncPolicy
  yieldMs    : Nat
  deriving DecidableEq, Repr

/-- The USB instance (R4): capacity 1024, non-blocking; `LITERAL` is the default policy (R7). -/
def Config.usb : Config := ⟨1024, .nb, .literal, 20⟩

/-- The UART instance (R4): capacity 256, cooperative; `LITERAL` is the default policy (R7). -/
def Config.uart : Config := ⟨256, .coop, .literal, 20⟩

/-- FREE VALUE (assumption 2, DEDUCED, safe): the byte that slot `slot` of ring storage holds after the `resets`-th
reset while nothing has written it. It has no value in the model: R32 says `MEM[*]` is unspecified after reset, and
spec/93_implementation_defined.md V1 says "any value". -/
opaque Config.unspecifiedByte (resets slot : Nat) : Byte

end Sys2Proof
end

