-- ==== Sys2Proof/Syntax.lean ====
section
/-! DEFINITION. The nine commands of the core: one constructor per row of spec/opcode_table.json
(spec/30_encoding.md R55, R56). -/

namespace Sys2Proof

/-- The core's "instructions" (spec/00_scope.md R2). The operand byte is `ARG` (R56): no operand is sign-extended,
scaled or shifted, so every value of the field is an operand. -/
inductive Instr where
  /-- `PUSH b`: the producer offers one byte to the ring buffer (R67). -/
  | push (b : Byte)
  /-- `POP`: the host pops one byte directly (R70). -/
  | pop
  /-- `STEP b`: the host feeds one byte directly to the decoder (R81). -/
  | step (b : Byte)
  /-- `GET i`: the host reads one channel register (R86). -/
  | get (i : Byte)
  /-- `DRAIN`: the host starts a non-blocking drain (R92). -/
  | drain
  /-- `RESYNC`: explicit resynchronization (R82). -/
  | resync
  /-- `TEARDOWN`: the host tears the stream down (R99). -/
  | teardown
  /-- `RDCNT k`: the host reads one diagnostic counter (R101). -/
  | rdcnt (k : Byte)
  /-- `RDSTAT`: the host reads the status register (R102). -/
  | rdstat
  deriving DecidableEq, Repr

end Sys2Proof
end

