-- ==== Sys2Proof/WellFormed.lean ====
section
/-! DEFINITION. Which instructions a port carries (spec/30_encoding.md R52, R57) and which configurations the spec
admits (spec/00_scope.md R7). -/

namespace Sys2Proof

/-- The port that carries a command: PUSH goes to the producer port and the rest to the control port (R52, R65). -/
def Instr.port : Instr → Port
  | .push _ => .producer
  | .pop => .control
  | .step _ => .control
  | .get _ => .control
  | .drain => .control
  | .resync => .control
  | .teardown => .control
  | .rdcnt _ => .control
  | .rdstat => .control

/-- An instruction is well-formed on a port when that port carries it (R57 makes "PUSH on the control port" and
"any other command on the producer port" illegal). An operand is one byte by its type (R56), so no operand value is
ill-formed. -/
def Instr.wellFormed (p : Port) (i : Instr) : Bool := decide (i.port = p)

/-- `CAP` is "any integer 1..65535" (R7). The other parameters admit every value of their types. -/
def Config.wf (c : Config) : Bool := decide (1 ≤ c.cap) && decide (c.cap ≤ 65535)

end Sys2Proof
end

