-- ==== Sys2Proof/Decode.lean ====
section
/-! DEFINITION. The command decoder (spec/30_encoding.md R54 to R58), total on every 16-bit word and port and rejecting
by name; after it the encoder of command words (R55) and the encoder of wire frames (R61, R64). -/

namespace Sys2Proof

/-- Why a command word is illegal (R57). Each ends in status ILLEGAL. -/
inductive Illegal where
  /-- `RSV` is not 0. -/
  | reservedBits
  /-- `OP` is 0x0 or at least 0xA. -/
  | reservedOpcode
  /-- `ARG` is not 0 for POP, DRAIN, RESYNC, TEARDOWN or RDSTAT. -/
  | nonzeroArg
  /-- PUSH on the control port, or any other command on the producer port. -/
  | wrongPort
  deriving DecidableEq, Repr

/-- What a command word decodes to on a port: exactly one of these (R58). -/
inductive Decoded where
  | instr (i : Instr)
  | illegal (why : Illegal)
  deriving DecidableEq, Repr

/-- `CMD[15:12]` (R54). -/
def opField (w : Word16) : BitVec 4 := w.extractLsb' 12 4

/-- `CMD[11:8]` (R54). -/
def rsvField (w : Word16) : BitVec 4 := w.extractLsb' 8 4

/-- `CMD[7:0]` (R54). -/
def argField (w : Word16) : Byte := w.extractLsb' 0 8

/-- A command without an operand: its `ARG` must be 0 (R56). -/
def noOperand (arg : Byte) (i : Instr) : Decoded :=
  if arg = 0 then .instr i else .illegal .nonzeroArg

/-- `Decode(port, CMD)` of R58, its checks in the order R58 makes them. -/
def decode (p : Port) (w : Word16) : Decoded :=
  if rsvField w ≠ 0 then .illegal .reservedBits
  else if opField w = 1 then
    match p with
    | .producer => .instr (.push (argField w))
    | .control => .illegal .wrongPort
  else match p with
    | .producer => .illegal .wrongPort
    | .control =>
      if opField w = 2 then noOperand (argField w) .pop
      else if opField w = 3 then .instr (.step (argField w))
      else if opField w = 4 then .instr (.get (argField w))
      else if opField w = 5 then noOperand (argField w) .drain
      else if opField w = 6 then noOperand (argField w) .resync
      else if opField w = 7 then noOperand (argField w) .teardown
      else if opField w = 8 then .instr (.rdcnt (argField w))
      else if opField w = 9 then noOperand (argField w) .rdstat
      else .illegal .reservedOpcode

/-- The port a command word is meant for: PUSH (`OP` = 0x1) is the one command of the producer port (R52, R55). -/
def portOfWord (w : Word16) : Port := if opField w = 1 then .producer else .control

/-- The instruction a decoded word stands for, none where the word is illegal. -/
def Decoded.toOption : Decoded → Option Instr
  | .instr i => some i
  | .illegal _ => none

/-- The word of the opcode table's bits: `nbits` bits of it, the bits above them 0. A command word is one 16-bit number
on a port and never bytes in a memory, so no byte order arises (R51, R54; assumption 5, DEDUCED, safe). -/
def tableWord (nbits w : Nat) : Word16 := BitVec.ofNat 16 (w % 2 ^ nbits)

/-- The instruction the decoder reads from an instruction whose bits are `w`, offered on the port it is meant for. -/
def decodeTableWord (nbits w : Nat) : Option Instr :=
  (decode (portOfWord (tableWord nbits w)) (tableWord nbits w)).toOption

/-- The `OP` of a command (R55). -/
def Instr.opcode : Instr → BitVec 4
  | .push _ => 0x1
  | .pop => 0x2
  | .step _ => 0x3
  | .get _ => 0x4
  | .drain => 0x5
  | .resync => 0x6
  | .teardown => 0x7
  | .rdcnt _ => 0x8
  | .rdstat => 0x9

/-- The `ARG` of a command (R56): its operand byte, 0 for a command that takes none. -/
def Instr.arg : Instr → Byte
  | .push b => b
  | .pop => 0
  | .step b => b
  | .get i => i
  | .drain => 0
  | .resync => 0
  | .teardown => 0
  | .rdcnt k => k
  | .rdstat => 0

/-- The command word of an instruction: `OP`, then `RSV` = 0, then `ARG` (R54). -/
def encode (i : Instr) : Word16 := i.opcode ++ (0 : BitVec 4) ++ i.arg

/-- The wire value of channel value `v`: `raw = v + 1024`, taken to 16 bits (R64). -/
def frameRaw (v : Int) : Word16 := BitVec.ofInt 16 (v + 1024)

/-- The 4-byte wire frame for channel `idx` and value `v` (R61, R64): SYNC, the index, the value's high byte, its low
byte (big-endian, spec/20_memory.md R35). R64 gives it for `v` in −1024..64511 (`frameValueOk`). -/
def encodeFrame (idx : Byte) (v : Int) : List Byte :=
  [0xB5, idx, (frameRaw v).extractLsb' 8 8, (frameRaw v).extractLsb' 0 8]

/-- The values a frame encoder accepts: −1024..64511 (R64, R66). -/
def frameValueOk (v : Int) : Bool := decide (-1024 ≤ v) && decide (v ≤ 64511)

end Sys2Proof
end

