-- ==== Sys2Proof/Machine/State.lean ====
section
/-! DEFINITION. The state of one core instance (spec/10_state.md R15 to R32), the instance's fixed parameters beside it,
and the environment's inputs and the core's outputs that a deterministic step must find in its state (assumption 3,
DESIGN CHOICE, safe). -/

namespace Sys2Proof.Machine

/-- `STAGE` (R21). -/
inductive Stage where
  | awaitSync
  | readChan
  | readHigh
  | readLow
  deriving DecidableEq, Repr

/-- `PSTATE` (R27). Its encodings 5 to 7 are never held: they are no values here (assumption 16, DEDUCED, safe). -/
inductive PState where
  /-- no drain in progress (NB) -/
  | idle
  /-- a DRAIN command is in progress (NB) -/
  | draining
  /-- the cooperative task pops and feeds bytes (COOP) -/
  | running
  /-- the cooperative task is suspended in a bounded yield (COOP) -/
  | yielding
  /-- the stream is torn down, until reset (both) -/
  | stopped
  deriving DecidableEq, Repr

/-- The five agents that take steps (spec/00_scope.md R13). -/
inductive Agent where
  | producer
  | host
  | pump
  | scheduler
  | reset
  deriving DecidableEq, Repr

/-- One response the core gave: the port it was given on and its 40-bit word (spec/30_encoding.md R52, R59). -/
structure Response where
  port : Port
  word : Word40
  deriving DecidableEq, Repr

/-- The state of one core instance. The fields from `mem` to `cpPending` are R15's list, in R15's order. `cfg` is the
instance's parameters, which no transition writes (R15, R33; assumption 9, DESIGN CHOICE, safe). `resets` is the
model's own counter for the free value of unwritten slots. `producerIn`, `hostIn` and `turns` are the inputs R33 names (what the producer offers, what the host
issues, the order in which agents step), and `responses` is what the core has answered, newest first. -/
structure State where
  cfg        : Config
  /-- `MEM[0..CAP-1]`: the slots written since reset, slots strictly rising -/
  mem        : List Host.Cell
  /-- `WP`, in [0, 2·CAP) -/
  wp         : Nat
  /-- `RP`, in [0, 2·CAP) -/
  rp         : Nat
  stage      : Stage
  acc        : Word32
  /-- `CH[0..15]`, each the 16-bit two's-complement pattern of an i16 (R24) -/
  ch         : Vector Word16 16
  ovfCnt     : Word32
  oorCnt     : Word32
  desyncCnt  : Word32
  pstate     : PState
  drainN     : Word32
  cpPending  : Bool
  resets     : Nat
  /-- command words the producer has yet to issue on the producer port, first one first -/
  producerIn : List Word16
  /-- command words the host has yet to issue on the control port, first one first -/
  hostIn     : List Word16
  /-- which agent is offered the next step, first one first -/
  turns      : List Agent
  /-- every response given so far, newest first -/
  responses  : List Response
  deriving DecidableEq, Repr

/-- Why the machine can stop with a fault: it cannot. "No condition of the core is fatal, and none transfers control"
(spec/60_exceptions.md R103), so there is no fault to name. Safe: nothing raises one. -/
inductive Fault where
  deriving DecidableEq, Repr

/-- Why the model can refuse an instruction. -/
inductive Refusal where
  /-- Raised by `exec` for an instruction that has no meaning yet; no arm of this model raises it. Safe: it stops where
  the hardware goes on. -/
  | notModelled (mnemonic : String)
  deriving DecidableEq, Repr

/-- What one step, one command or one transition answers. -/
abbrev Answer := Host.Outcome State Fault Refusal

/-- `PSTATE` after reset (R32): `IDLE` in an NB instance, `RUNNING` in a COOP instance. -/
def PState.afterReset : DrainMode → PState
  | .nb => .idle
  | .coop => .running

/-- The state right after reset of an instance with parameters `c` (R32), with nothing offered on its ports. No slot of
ring storage is listed: its contents are unspecified (R32), and reads of them are the free value of assumption 2. -/
def State.resetOf (c : Config) : State where
  cfg        := c
  mem        := []
  wp         := 0
  rp         := 0
  stage      := .awaitSync
  acc        := 0
  ch         := Vector.replicate 16 0
  ovfCnt     := 0
  oorCnt     := 0
  desyncCnt  := 0
  pstate     := .afterReset c.drainMode
  drainN     := 0
  cpPending  := false
  resets     := 0
  producerIn := []
  hostIn     := []
  turns      := []
  responses  := []

/-- The machine right after reset: the USB instance of R4 with the default policy (assumption 1, DESIGN CHOICE,
unsafe). -/
def State.reset : State := State.resetOf Config.usb

end Sys2Proof.Machine
end

