-- ==== Sys2Proof/Machine/Ops.lean ====
section
/-! DEFINITION. The operations every command is written over: the arithmetic of spec/00_scope.md R10, the response word
(spec/30_encoding.md R59, R60), ring storage and its derived quantities (spec/10_state.md R17 to R19), the pop primitive
(spec/41_ring_buffer.md R69), the channel registers and the counters (spec/10_state.md R24 to R26), reset
(spec/70_reset_and_hazards.md R116).

There is no operation that takes an exception and none that returns from one: the core has no trap entry, saves no state,
changes no mode and has no vector (spec/60_exceptions.md R108), and it has no return-from-trap operation (R109). Every
condition is a response status or a counted event (R103). -/

namespace Sys2Proof.Machine

/-- `SYNC` (R8). -/
def syncByte : Byte := 0xB5

/-- `BIAS` (R8). -/
def bias : Int := 1024

/-- `zext_32` of a byte (R10). -/
def zext32 (b : Byte) : Word32 := b.zeroExtend 32

/-- `sext_32` of a 16-bit two's-complement value (R10). -/
def sext32 (v : Word16) : Word32 := v.signExtend 32

/-- `wrap16` (R10): the 16-bit two's-complement pattern of the i16 congruent to `n` modulo 2^16. -/
def wrap16 (n : Int) : Word16 := BitVec.ofInt 16 n

/-- `inc32` (R10). -/
def inc32 (c : Word32) : Word32 := c + 1

/-- The status codes (R60). Codes 0x08 to 0xFF are never produced: they are no values here (assumption 16, DEDUCED,
safe). -/
inductive Status where
  | ok
  | empty
  | full
  | notFound
  | illegal
  | busy
  | stopped
  | mode
  deriving DecidableEq, Repr

/-- The numeric code of a status (R60). -/
def Status.code : Status → Byte
  | .ok => 0x00
  | .empty => 0x01
  | .full => 0x02
  | .notFound => 0x03
  | .illegal => 0x04
  | .busy => 0x05
  | .stopped => 0x06
  | .mode => 0x07

/-- The response word `RSP`: `STATUS` in bits [39:32], `DATA` in bits [31:0] (R59). -/
def rspWord (st : Status) (data : Word32) : Word40 := st.code ++ data

/-- `STATUS` of a response word (R59). -/
def rspStatus (r : Word40) : Byte := r.extractLsb' 32 8

/-- `DATA` of a response word (R59). -/
def rspData (r : Word40) : Word32 := r.extractLsb' 0 32

/-- `respond(STATUS, data)` on port `p` (R11, R52). -/
def State.respond (s : State) (p : Port) (st : Status) (data : Word32) : State :=
  { s with responses := ⟨p, rspWord st data⟩ :: s.responses }

/-- What ring storage holds at a slot, none where nothing has written it since reset. -/
def Memory.read : List Host.Cell → Nat → Option Byte
  | [], _ => none
  | (k, v) :: m, slot => if k = slot then some v else Memory.read m slot

/-- Ring storage after a write of `b` at a slot: the slots stay strictly rising. -/
def Memory.write : List Host.Cell → Nat → Byte → List Host.Cell
  | [], slot, b => [(slot, b)]
  | (k, v) :: m, slot, b =>
    if slot < k then (slot, b) :: (k, v) :: m
    else if slot = k then (slot, b) :: m
    else (k, v) :: Memory.write m slot b

/-- Every slot of `m` lies above `lo`, and the slots strictly rise. -/
def Memory.risingFrom : Nat → List Host.Cell → Bool
  | _, [] => true
  | lo, (k, _) :: m => decide (lo < k) && Memory.risingFrom k m

/-- The canonical form of ring storage: slots strictly rising. A slot that is not listed reads as no value, so no entry
can equal what an unlisted slot reads as, and equal contents are equal lists. -/
def Memory.wf : List Host.Cell → Bool
  | [] => true
  | (k, _) :: m => Memory.risingFrom k m

/-- `MemRead(slot, 1)` (R11). A slot that nothing has written since reset holds an unspecified byte (R17, R32): the free
value of assumption 2 (DEDUCED, safe). -/
def State.memRead (s : State) (slot : Nat) : Byte :=
  match Memory.read s.mem slot with
  | some b => b
  | none => Config.unspecifiedByte s.resets slot

/-- `MemWrite(slot, 1, b)` (R11). -/
def State.memWrite (s : State) (slot : Nat) (b : Byte) : State :=
  { s with mem := Memory.write s.mem slot b }

/-- The slot a PUSH stores to: `WP mod CAP` (R18, R67). -/
def State.pushSlot (s : State) : Nat := s.wp % s.cfg.cap

/-- The slot a pop reads: `RP mod CAP` (R18, R69). -/
def State.popSlot (s : State) : Nat := s.rp % s.cfg.cap

/-- `(p + 1) mod (2*CAP)`: the pointer after `p` (R67, R69). -/
def State.nextPtr (s : State) (p : Nat) : Nat := (p + 1) % (2 * s.cfg.cap)

/-- `LEVEL = (WP − RP) mod (2·CAP)`, the number of buffered bytes (R19). -/
def State.level (s : State) : Nat :=
  (((s.wp : Int) - (s.rp : Int)) % ((2 * s.cfg.cap : Nat) : Int)).toNat

/-- The slot of the `k`-th buffered byte, oldest first: `(RP + k) mod (2·CAP) mod CAP` (R19). -/
def State.liveSlot (s : State) (k : Nat) : Nat := (s.rp + k) % (2 * s.cfg.cap) % s.cfg.cap

/-- The live queue `Q`, oldest byte first (R19). -/
def State.queue (s : State) : List Byte :=
  (List.range s.level).map (fun k => s.memRead (s.liveSlot k))

/-- `OVF_CNT <- inc32(OVF_CNT)` (R26, R67). -/
def State.countOverflow (s : State) : State := { s with ovfCnt := inc32 s.ovfCnt }

/-- `OOR_CNT <- inc32(OOR_CNT)` (R26, R79). -/
def State.countOutOfRange (s : State) : State := { s with oorCnt := inc32 s.oorCnt }

/-- `DESYNC_CNT <- inc32(DESYNC_CNT)` (R26, R79). -/
def State.countDesync (s : State) : State := { s with desyncCnt := inc32 s.desyncCnt }

/-- Store a byte that the buffer has room for (R67): the slot, then the write pointer. -/
def State.storeByte (s : State) (b : Byte) : State :=
  { s.memWrite s.pushSlot b with wp := s.nextPtr s.wp }

/-- Remove the oldest byte (R69): only the read pointer moves. The slot keeps its byte, which no rule reads again (R17;
assumption 20, DESIGN CHOICE, unsafe). -/
def State.dropOldest (s : State) : State := { s with rp := s.nextPtr s.rp }

/-- `PopInternal()` (R69): the oldest byte and the state without it, or none where the buffer is empty (and nothing
changes). -/
def State.popInternal (s : State) : Option (Byte × State) :=
  if s.level = 0 then none else some (s.memRead s.popSlot, s.dropOldest)

/-- `CH[i]` (R11, R24): indices 16..255 select nothing (R34) and no rule reads through one
(assumption 11, DESIGN CHOICE, safe). -/
def State.channel (s : State) (i : Byte) : Word16 := s.ch.getD i.toNat 0

/-- `CH[i] <- v` (R11, R25): the whole register at once. Indices 16..255 select nothing (R34), so nothing is written. -/
def State.setChannel (s : State) (i : Byte) (v : Word16) : State :=
  { s with ch := s.ch.setIfInBounds i.toNat v }

/-- `STAGE` and `ACC` together (R22). -/
def State.setDecoder (s : State) (stage : Stage) (acc : Word32) : State :=
  { s with stage := stage, acc := acc }

/-- `PSTATE <- p` (R27). -/
def State.setPump (s : State) (p : PState) : State := { s with pstate := p }

/-- Reset (R116): one transition that sets every state element to its value in R32. A DRAIN that is outstanding is
abandoned without a response. What the outside world has yet to offer, and what the core has already answered, is not
the core's state (R33) and stays (assumption 18, DEDUCED, safe). -/
def State.resetElements (s : State) : State :=
  { State.resetOf s.cfg with
    resets := s.resets + 1
    producerIn := s.producerIn
    hostIn := s.hostIn
    turns := s.turns
    responses := s.responses }

/-- The events of the decoder step (spec/42_frame_decoder.md R72). -/
inductive Event where
  | none
  | discard
  | restart
  | emit (i : Byte) (v : Word16)
  | outOfRange (i : Byte)
  deriving DecidableEq, Repr

end Sys2Proof.Machine
end

