-- ==== Sys2Proof/Machine/Operands.lean ====
section
/-! DEFINITION. The operand forms of the commands, from `ARG` (spec/30_encoding.md R56), and of a frame, from its bytes
(spec/30_encoding.md R62). -/

namespace Sys2Proof.Machine

/-- PUSH and STEP take the byte `b = ARG` (u8, no extension) (R56). -/
def byteOperand (arg : Byte) : Byte := arg

/-- GET takes the channel index `i = zext_32(ARG)` (R56). -/
def indexOperand (arg : Byte) : Word32 := zext32 arg

/-- RDCNT takes the counter selector `k = zext_32(ARG)` (R56). -/
def selectorOperand (arg : Byte) : Word32 := zext32 arg

/-- The accumulator with its pending channel index `ACC[23:16]` replaced (R22, R74). -/
def accWithIndex (acc : Word32) (b : Byte) : Word32 := (acc &&& 0xFF00FFFF) ||| (zext32 b <<< 16)

/-- The accumulator with its value high byte `ACC[15:8]` replaced (R22, R75). -/
def accWithHigh (acc : Word32) (b : Byte) : Word32 := (acc &&& 0xFFFF00FF) ||| (zext32 b <<< 8)

/-- The accumulator with its value low byte `ACC[7:0]` replaced (R22, R76). -/
def accWithLow (acc : Word32) (b : Byte) : Word32 := (acc &&& 0xFFFFFF00) ||| zext32 b

/-- `ACC[23:16]`, the pending channel index (R22). -/
def accIndex (acc : Word32) : Byte := acc.extractLsb' 16 8

/-- `ACC[15:0]`, the raw value of a complete frame (R22, R62). -/
def accRaw (acc : Word32) : Word16 := acc.extractLsb' 0 16

/-- The decoded value of a raw value: `wrap16(raw − 1024)` (R62, R77). -/
def frameValue (raw : Word16) : Word16 := wrap16 ((raw.toNat : Int) - bias)

end Sys2Proof.Machine
end

