-- ==== Sys2Proof/Machine/Flags.lean ====
section
/-! DEFINITION. The flags a host can observe (spec/10_state.md R19, R30), the status word that holds them (R31, R102) and
the event word that STEP returns (spec/42_frame_decoder.md R81). The core has no condition-code register (R30). -/

namespace Sys2Proof.Machine

/-- `EMPTY = (LEVEL == 0)` (R19). -/
def State.isEmpty (s : State) : Bool := decide (s.level = 0)

/-- `FULL = (LEVEL == CAP)` (R19). -/
def State.isFull (s : State) : Bool := decide (s.level = s.cfg.cap)

/-- The 2-bit encoding of `STAGE` (R21). -/
def Stage.code : Stage → BitVec 2
  | .awaitSync => 0
  | .readChan => 1
  | .readHigh => 2
  | .readLow => 3

/-- The 3-bit encoding of `PSTATE` (R27). -/
def PState.code : PState → BitVec 3
  | .idle => 0
  | .draining => 1
  | .running => 2
  | .yielding => 3
  | .stopped => 4

/-- One bit of the status word, as a 32-bit number. -/
def flag32 (b : Bool) : Word32 := if b then 1 else 0

/-- The status word `STATUS` (R31), computed from state whenever it is read, as R102 writes it. -/
def State.statusWord (s : State) : Word32 :=
  (BitVec.ofNat 32 s.level <<< 16)
    ||| (flag32 s.isFull <<< 9) ||| (flag32 s.isEmpty <<< 8)
    ||| (flag32 (decide (s.cfg.syncPolicy = .resync)) <<< 7)
    ||| (flag32 (decide (s.cfg.drainMode = .coop)) <<< 6)
    ||| (s.stage.code.zeroExtend 32 <<< 4)
    ||| s.pstate.code.zeroExtend 32

/-- The event kind `DATA[2:0]` (R81). -/
def Event.kind : Event → BitVec 3
  | .none => 0
  | .emit _ _ => 1
  | .outOfRange _ => 2
  | .discard => 3
  | .restart => 4

/-- The index byte `DATA[15:8]`: `i` for EMIT and OUT_OF_RANGE, else 0 (R81). -/
def Event.index : Event → Byte
  | .none => 0
  | .emit i _ => i
  | .outOfRange i => i
  | .discard => 0
  | .restart => 0

/-- The value half `DATA[31:16]`: `v` for EMIT, else 0 (R81). -/
def Event.value : Event → Word16
  | .none => 0
  | .emit _ v => v
  | .outOfRange _ => 0
  | .discard => 0
  | .restart => 0

/-- `EventWord(ev)` (R81): value, index, five zero bits, kind. -/
def Event.word (ev : Event) : Word32 := ev.value ++ ev.index ++ (0 : BitVec 5) ++ ev.kind

end Sys2Proof.Machine
end

