-- ==== Sys2Proof/Machine/ChannelTable.lean ====
section
/-! DEFINITION. GET (spec/43_channel_table.md R86). -/

namespace Sys2Proof.Machine

/-- **GET i** (R86): accepted in every `PSTATE`, no side effect. -/
def execGet (i : Byte) (s : State) : Answer :=
  if (indexOperand i).toNat ≤ 15 then .next (s.respond .control .ok (sext32 (s.channel i)))
  else .next (s.respond .control .notFound 0)

end Sys2Proof.Machine
end

