-- ==== Sys2Proof/Machine/Diagnostics.lean ====
section
/-! DEFINITION. RDCNT and RDSTAT (spec/45_diagnostics.md R101, R102). -/

namespace Sys2Proof.Machine

/-- The counter a selector names (R101): 0 BufferOverflow, 1 OutOfRangeChannel, 2 Desync, otherwise none. -/
def State.counter (s : State) (k : Word32) : Option Word32 :=
  if k = 0 then some s.ovfCnt
  else if k = 1 then some s.oorCnt
  else if k = 2 then some s.desyncCnt
  else none

/-- **RDCNT k** (R101): a read does not clear a counter. -/
def execRdcnt (k : Byte) (s : State) : Answer :=
  match s.counter (selectorOperand k) with
  | some n => .next (s.respond .control .ok n)
  | none => .next (s.respond .control .notFound 0)

/-- **RDSTAT** (R102). -/
def execRdstat (s : State) : Answer := .next (s.respond .control .ok s.statusWord)

end Sys2Proof.Machine
end

