-- ==== Sys2Proof/Machine/FrameDecoder.lean ====
section
/-! DEFINITION. The frame decoder: the step function and the effect of its events, and the commands STEP and RESYNC
(spec/42_frame_decoder.md R72 to R82). -/

namespace Sys2Proof.Machine

/-- The completion of a frame whose accumulator is `full` (R76): its index is checked, its value computed (R77). -/
def completeFrame (full : Word32) : Event :=
  if (accIndex full).toNat ≤ 15 then .emit (accIndex full) (frameValue (accRaw full))
  else .outOfRange (accIndex full)

/-- `DecodeStep(pol, stage, acc, b)` (R72), a total function that reads no other state and writes nothing. -/
def decodeStep (pol : SyncPolicy) (stage : Stage) (acc : Word32) (b : Byte) : Stage × Word32 × Event :=
  if stage = .awaitSync then
    if b = syncByte then (.readChan, 0, .none) else (.awaitSync, 0, .discard)
  else if pol = .resync ∧ b = syncByte then (.readChan, 0, .restart)
  else match stage with
    | .awaitSync => (.awaitSync, 0, .discard)
    | .readChan => (.readHigh, accWithIndex acc b, .none)
    | .readHigh => (.readLow, accWithHigh acc b, .none)
    | .readLow => (.awaitSync, 0, completeFrame (accWithLow acc b))

/-- `Apply(ev)` (R79). An EMIT is the only write of a channel register. -/
def State.apply (s : State) : Event → State
  | .emit i v => s.setChannel i v
  | .outOfRange _ => s.countOutOfRange
  | .discard => s.countDesync
  | .none => s
  | .restart => s

/-- The event that feeding `b` produces (R79). -/
def State.feedEvent (s : State) (b : Byte) : Event :=
  (decodeStep s.cfg.syncPolicy s.stage s.acc b).2.2

/-- `Feed(b)` (R79): one decoder step and its event applied, in one transition. -/
def State.feed (s : State) (b : Byte) : State :=
  (s.setDecoder (decodeStep s.cfg.syncPolicy s.stage s.acc b).1
    (decodeStep s.cfg.syncPolicy s.stage s.acc b).2.1).apply (s.feedEvent b)

/-- **STEP b** (R81). `PSTATE = DRAINING` cannot occur when STEP is accepted (R53), so the last line is `IDLE`
(assumption 10, DEDUCED, safe). -/
def execStep (b : Byte) (s : State) : Answer :=
  if s.pstate = .stopped then .next (s.respond .control .stopped 0)
  else if s.pstate = .running ∨ s.pstate = .yielding then .next (s.respond .control .busy 0)
  else .next ((s.feed (byteOperand b)).respond .control .ok (s.feedEvent (byteOperand b)).word)

/-- **RESYNC** (R82). -/
def execResync (s : State) : Answer :=
  if s.pstate = .stopped then .next (s.respond .control .stopped 0)
  else .next ((s.setDecoder .awaitSync 0).respond .control .ok 0)

end Sys2Proof.Machine
end

