-- ==== Sys2Proof/Machine/Pump.lean ====
section
/-! DEFINITION. The pump/drain controller: DRAIN, TEARDOWN, the pump's own steps and YIELD_DONE (spec/44_pump.md). -/

namespace Sys2Proof.Machine

/-- **DRAIN** (R92). Accepted, it gives no response now: the pump step that finds the buffer empty responds (R93).
R92's last line is `IDLE` (assumption 10, DEDUCED, safe). -/
def execDrain (s : State) : Answer :=
  if s.cfg.drainMode = .coop then .next (s.respond .control .mode 0)
  else if s.pstate = .stopped then .next (s.respond .control .stopped 0)
  else .next { s with pstate := .draining, drainN := 0, cpPending := true }

/-- **TEARDOWN** (R99): stops the pump and discards a partial frame; the buffer, `CH` and the counters stay. -/
def execTeardown (s : State) : Answer :=
  .next (((s.setPump .stopped).setDecoder .awaitSync 0).respond .control .ok 0)

/-- The pump step in DRAINING (R93): a byte's pop and its feed are one transition; the step that finds the buffer empty
completes the DRAIN. -/
def State.pumpStepNB (s : State) : State :=
  match s.popInternal with
  | some (b, s') => { s'.feed b with drainN := inc32 s.drainN }
  | none => { s with pstate := .idle, cpPending := false }.respond .control .ok s.drainN

/-- The pump step in RUNNING (R95): each empty observation enters YIELDING. -/
def State.pumpStepCOOP (s : State) : State :=
  match s.popInternal with
  | some (b, s') => s'.feed b
  | none => s.setPump .yielding

/-- A pump step is enabled in DRAINING and RUNNING (R91). -/
def State.pumpEnabled (s : State) : Bool := decide (s.pstate = .draining) || decide (s.pstate = .running)

/-- The pump's step where one is enabled (R91). Where none is, nothing changes. -/
def State.pumpStep (s : State) : State :=
  match s.pstate with
  | .draining => s.pumpStepNB
  | .running => s.pumpStepCOOP
  | .idle => s
  | .yielding => s
  | .stopped => s

/-- YIELD_DONE is enabled in YIELDING (R91). -/
def State.yieldDoneEnabled (s : State) : Bool := decide (s.pstate = .yielding)

/-- YIELD_DONE where it is enabled (R96): it changes nothing but `PSTATE`, and has no response. -/
def State.yieldDone (s : State) : State :=
  if s.pstate = .yielding then s.setPump .running else s

end Sys2Proof.Machine
end

