-- ==== Sys2Proof/Machine/RingBuffer.lean ====
section
/-! DEFINITION. PUSH and POP (spec/41_ring_buffer.md R67, R70). -/

namespace Sys2Proof.Machine

/-- The effect of a PUSH of `b` (R67): at `LEVEL = CAP` the byte is dropped and counted (BufferOverflow, status FULL);
otherwise it is stored. `PSTATE` is not read. -/
def State.pushByte (s : State) (b : Byte) : State :=
  if s.level = s.cfg.cap then s.countOverflow.respond .producer .full 0
  else (s.storeByte b).respond .producer .ok 0

/-- **PUSH b** (R67). -/
def execPush (b : Byte) (s : State) : Answer := .next (s.pushByte (byteOperand b))

/-- The effect of a POP while no cooperative task owns the consumer side (R70). -/
def State.popByte (s : State) : State :=
  match s.popInternal with
  | none => s.respond .control .empty 0
  | some (b, s') => s'.respond .control .ok (zext32 b)

/-- **POP** (R70). `PSTATE = DRAINING` cannot occur when POP is accepted (R53), so the last line is `IDLE`
(assumption 10, DEDUCED, safe). -/
def execPop (s : State) : Answer :=
  if s.pstate = .stopped then .next (s.respond .control .stopped 0)
  else if s.pstate = .running ∨ s.pstate = .yielding then .next (s.respond .control .busy 0)
  else .next s.popByte

end Sys2Proof.Machine
end

