-- ==== Sys2Proof/Machine/Dispatch.lean ====
section
/-! DEFINITION. What an accepted command does: one meaning per constructor of Instr. -/

namespace Sys2Proof.Machine

def exec (i : Instr) (s : State) : Host.Outcome State Fault Refusal :=
  match i with
  | .push b => Sys2Proof.Machine.execPush b s
  | .pop => Sys2Proof.Machine.execPop s
  | .step b => Sys2Proof.Machine.execStep b s
  | .get n => Sys2Proof.Machine.execGet n s
  | .drain => Sys2Proof.Machine.execDrain s
  | .resync => Sys2Proof.Machine.execResync s
  | .teardown => Sys2Proof.Machine.execTeardown s
  | .rdcnt k => Sys2Proof.Machine.execRdcnt k s
  | .rdstat => Sys2Proof.Machine.execRdstat s

end Sys2Proof.Machine
end

