-- ==== Sys2Proof/Machine/Ports.lean ====
section
/-! DEFINITION. The transitions of the core (spec/20_memory.md R42, R43), which of them are enabled, the offering of a
command word on a port (spec/30_encoding.md R52, R53, R57), and the turn of each agent (spec/00_scope.md R13). -/

namespace Sys2Proof.Machine

/-- The atomic transitions (R42): a command word on the producer port, the acceptance of a command word on the control
port, a pump step, YIELD_DONE, reset. -/
inductive Transition where
  | producer (w : Word16)
  | control (w : Word16)
  | pump
  | yieldDone
  | reset
  deriving DecidableEq, Repr

/-- Which transitions a state enables (R43): the producer port always accepts a command, the control port only while
no DRAIN is outstanding (R53), the pump and the scheduler as R91 says. -/
def Transition.enabled (s : State) : Transition → Bool
  | .producer _ => true
  | .control _ => !s.cpPending
  | .pump => s.pumpEnabled
  | .yieldDone => s.yieldDoneEnabled
  | .reset => true

/-- A command word accepted on port `p`: the instruction it decodes to, or the answer ILLEGAL with data 0 and no other
change (R57, R58). -/
def issue (p : Port) (w : Word16) (s : State) : Answer :=
  match decode p w with
  | .instr i => exec i s
  | .illegal _ => .next (s.respond p .illegal 0)

/-- One transition of the core (R42), for a transition that is enabled. -/
def fire (t : Transition) (s : State) : Answer :=
  match t with
  | .producer w => issue .producer w s
  | .control w => issue .control w s
  | .pump => .next s.pumpStep
  | .yieldDone => .next s.yieldDone
  | .reset => .next s.resetElements

/-- A transition where it is enabled; where it is not, nothing happens (assumption 7, DESIGN CHOICE, safe). -/
def fireIfEnabled (t : Transition) (s : State) : Answer :=
  if t.enabled s then fire t s else .next s

/-- The producer's turn: it issues the next word it has, if any. -/
def producerTurn (s : State) : Answer :=
  match s.producerIn with
  | [] => .next s
  | w :: ws => fire (.producer w) { s with producerIn := ws }

/-- The host's turn: it issues the next word it has, if any, while the control port accepts one. While a DRAIN is
outstanding the host waits, and the word stays its next one (R53). -/
def hostTurn (s : State) : Answer :=
  if s.cpPending then .next s
  else match s.hostIn with
    | [] => .next s
    | w :: ws => fire (.control w) { s with hostIn := ws }

/-- The turn of an agent. -/
def takeTurn (a : Agent) (s : State) : Answer :=
  match a with
  | .producer => producerTurn s
  | .host => hostTurn s
  | .pump => fireIfEnabled .pump s
  | .scheduler => fireIfEnabled .yieldDone s
  | .reset => fire .reset s

/-- The turn when the list of turns is used up: the pump's step where one is enabled, else YIELD_DONE where it is, else
nothing. So every run whose list of turns ends is weakly fair to the pump and to the scheduler (R44), and the producer
and the host, who "are under no obligation to issue anything", issue nothing more (assumption 4, DESIGN CHOICE,
unsafe). -/
def openTurn (s : State) : Answer :=
  if s.pumpEnabled then fire .pump s else fireIfEnabled .yieldDone s

/-- A state whose control port accepts a command: an outstanding DRAIN is taken as abandoned, in both of the fields that
record it (R28; assumption 6, DESIGN CHOICE, unsafe). -/
def State.portsFree (s : State) : State :=
  if s.cpPending then
    { s with cpPending := false, pstate := if s.pstate = .draining then .idle else s.pstate }
  else s

/-- The word `w` offered as the next command on the port it is meant for, and that port's agent given the next turn
(assumption 6, DESIGN CHOICE, unsafe). -/
def State.offerWord (s : State) (w : Word16) : State :=
  match portOfWord w with
  | .producer => { s with producerIn := w :: s.producerIn, turns := .producer :: s.turns }
  | .control => { s.portsFree with hostIn := w :: s.hostIn, turns := .host :: s.turns }

end Sys2Proof.Machine
end

