-- ==== Sys2Proof/Machine/Step.lean ====
section
/-! DEFINITION. One step of the machine: the turn of the next agent in `turns` (spec/20_memory.md R42, R43). -/

namespace Sys2Proof.Machine

/-- One step: the next agent's turn, or, when no turn is listed, a step of the pump or the scheduler where one is
enabled. The core fetches nothing (spec/20_memory.md R51): a command comes from the port its agent issues it on. -/
def step (s : State) : Host.Outcome State Fault Refusal :=
  match s.turns with
  | [] => openTurn s
  | a :: rest => takeTurn a { s with turns := rest }

/-- `s` with the command word of bits `w` offered so that the very next step issues exactly it (assumption 6, DESIGN
CHOICE, unsafe). -/
def State.withFetchWord (s : State) (nbits w : Nat) : State := s.offerWord (tableWord nbits w)

end Sys2Proof.Machine
end

