-- ==== Sys2Proof/Machine/Assembler.lean ====
section
/-! DEFINITION. The assembly syntax of a command sequence and its pseudo-instructions (spec/30_encoding.md R65, R66).
It is notation for the words offered on the ports and changes nothing in the machine. Text is a list of characters;
upper case, and blanks and commas between words, are the model's reading of R65 (assumption 17, DESIGN CHOICE, safe). -/

namespace Sys2Proof.Machine

/-- The mnemonics of R65 with R55's `OP` and R56's operand rule: the name, the `OP`, whether the command takes an
operand. -/
structure Mnemonic where
  name    : List Char
  opcode  : Nat
  operand : Bool
  deriving DecidableEq, Repr

/-- The nine mnemonics (R55, R65). -/
def mnemonics : List Mnemonic :=
  [⟨['P','U','S','H'], 1, true⟩, ⟨['P','O','P'], 2, false⟩, ⟨['S','T','E','P'], 3, true⟩,
   ⟨['G','E','T'], 4, true⟩, ⟨['D','R','A','I','N'], 5, false⟩, ⟨['R','E','S','Y','N','C'], 6, false⟩,
   ⟨['T','E','A','R','D','O','W','N'], 7, false⟩, ⟨['R','D','C','N','T'], 8, true⟩,
   ⟨['R','D','S','T','A','T'], 9, false⟩]

/-- One line of assembly: a command with the operand it is written with, or a pseudo-instruction (R66). -/
inductive AsmLine where
  | command (m : Mnemonic) (operand : Option Nat)
  | bytes (bs : List Nat)
  | frame (idx : Nat) (v : Int)
  deriving DecidableEq, Repr

/-- What the assembler accepts: operands 0..255 (R65), an operand exactly where the command takes one (R56;
assumption 8, DEDUCED, safe), `FRAME` with `idx` in 0..255 and `v` in −1024..64511 (R66). -/
def AsmLine.wf : AsmLine → Bool
  | .command m none => !m.operand
  | .command m (some n) => m.operand && decide (n ≤ 255)
  | .bytes bs => bs.all (fun b => decide (b ≤ 255))
  | .frame idx v => decide (idx ≤ 255) && frameValueOk v

/-- `PUSH b` as it is offered: its word on the producer port. -/
def pushWord (b : Byte) : Port × Word16 := (.producer, encode (.push b))

/-- `CMD = OP << 12 | operand` (R65) on the port the mnemonic implies. -/
def commandWord (m : Mnemonic) (operand : Nat) : Port × Word16 :=
  let w := BitVec.ofNat 16 (m.opcode <<< 12 ||| operand)
  (portOfWord w, w)

/-- The command words a line stands for, none where the assembler refuses it. -/
def AsmLine.assemble (l : AsmLine) : Option (List (Port × Word16)) :=
  if l.wf then
    some (match l with
      | .command m none => [commandWord m 0]
      | .command m (some n) => [commandWord m n]
      | .bytes bs => bs.map (fun b => pushWord (BitVec.ofNat 8 b))
      | .frame idx v => (encodeFrame (BitVec.ofNat 8 idx) v).map pushWord)
  else none

/-- Drop a comment: `;` starts one (R65). -/
def stripComment : List Char → List Char
  | [] => []
  | c :: cs => if c = ';' then [] else c :: stripComment cs

/-- The words of a line, cut at spaces, tabs and commas; `cur` is the word in progress, reversed. -/
def splitWords : List Char → List Char → List (List Char)
  | cur, [] => if cur.isEmpty then [] else [cur.reverse]
  | cur, c :: cs =>
    if c = ' ' ∨ c = '\t' ∨ c = ',' then
      if cur.isEmpty then splitWords [] cs else cur.reverse :: splitWords [] cs
    else splitWords (c :: cur) cs

/-- The value of a digit in a base, none where the character is no digit of it. -/
def digitValue (base : Nat) (c : Char) : Option Nat :=
  let n := c.toNat
  let v := if 48 ≤ n ∧ n ≤ 57 then n - 48
    else if 97 ≤ n ∧ n ≤ 102 then n - 87
    else if 65 ≤ n ∧ n ≤ 70 then n - 55
    else base
  if v < base then some v else none

/-- The number a string of digits stands for, `acc` read so far. -/
def digits (base : Nat) : Nat → List Char → Option Nat
  | acc, [] => some acc
  | acc, c :: cs =>
    match digitValue base c with
    | some d => digits base (acc * base + d) cs
    | none => none

/-- A number, decimal or `0x` hex (R65). -/
def number : List Char → Option Nat
  | [] => none
  | '0' :: 'x' :: c :: cs => digits 16 0 (c :: cs)
  | c :: cs => digits 10 0 (c :: cs)

/-- A number that may be negative: the `v` of FRAME (R66). R66 admits −1024 and R65 writes unsigned numbers only: that a
`-` stands directly before either form, so that `-0x10` is a number too, is the model's choice (assumption 21, DESIGN
CHOICE, safe). -/
def signedNumber : List Char → Option Int
  | '-' :: cs => (number cs).map (fun n => -(n : Int))
  | cs => (number cs).map (fun n => (n : Int))

/-- The numbers of a list of words, none where one of them is no number. -/
def numbers : List (List Char) → Option (List Nat)
  | [] => some []
  | w :: ws =>
    match number w, numbers ws with
    | some n, some ns => some (n :: ns)
    | _, _ => none

/-- The line a list of words stands for (R65, R66). A `BYTES` with no byte is taken, and stands for no word: R66 does not
say whether it is admitted (assumption 22, DESIGN CHOICE, safe). -/
def parseWords : List (List Char) → Option AsmLine
  | [] => none
  | name :: rest =>
    if name = ['B','Y','T','E','S'] then (numbers rest).map .bytes
    else if name = ['F','R','A','M','E'] then
      match rest with
      | [i, v] =>
        match number i, signedNumber v with
        | some i, some v => some (.frame i v)
        | _, _ => none
      | _ => none
    else
      match mnemonics.find? (fun m => decide (m.name = name)), rest with
      | some m, [] => some (.command m none)
      | some m, [w] => (number w).map (fun n => .command m (some n))
      | _, _ => none

/-- The command words of one line of text (R65): none where the assembler refuses the line, no word for a line that
holds only a comment. -/
def assembleText (text : List Char) : Option (List (Port × Word16)) :=
  match splitWords [] (stripComment text) with
  | [] => some []
  | w :: ws =>
    match parseWords (w :: ws) with
    | some l => l.assemble
    | none => none

end Sys2Proof.Machine
end

