-- ==== Sys2Proof/Machine/System.lean ====
section
/-! DEFINITION. The system of two core instances (spec/00_scope.md R4, spec/60_exceptions.md R113). They share no state,
and nothing orders the transitions of one against those of the other (spec/20_memory.md R48). The host's interface runs one
instance; the pair stands here (assumption 12, DESIGN CHOICE, safe). -/

namespace Sys2Proof.Machine

/-- The two instances, named by their transport (R113). -/
inductive Transport where
  | usb
  | uart
  deriving DecidableEq, Repr

/-- The system's state: one core state per instance (R48, R89). -/
structure System where
  usb  : State
  uart : State
  deriving DecidableEq, Repr

/-- The core of an instance. -/
def System.get (y : System) : Transport → State
  | .usb => y.usb
  | .uart => y.uart

/-- The system with an instance's core replaced. -/
def System.set (y : System) (x : Transport) (s : State) : System :=
  match x with
  | .usb => { y with usb := s }
  | .uart => { y with uart := s }

/-- Each instance starts at its own reset (R113): USB with CAP 1024 and NB, UART with CAP 256 and COOP (R4). -/
def System.reset : System := ⟨State.resetOf Config.usb, State.resetOf Config.uart⟩

/-- One step of the instance `x`. Which instance steps next is the argument: every interleaving is admitted (R48). -/
def System.step (y : System) (x : Transport) : Host.Outcome System Fault Refusal :=
  match Machine.step (y.get x) with
  | .next s => .next (y.set x s)
  | .fault r => .fault r
  | .refused r => .refused r

end Sys2Proof.Machine
end

