-- ==== Sys2Proof/Safety.lean ====
section
/-! DEFINITION. The terms claims are stated in: the invariant of a core that has been reset, the view of the decoder that
a run of bytes determines, runs of `step`, and infinite executions with their fairness (spec/20_memory.md R43, R44). -/

namespace Sys2Proof.Machine

/-- The ring buffer's invariant: the configuration is admitted (R7), both pointers are in [0, 2·CAP) (R15), and
`LEVEL ≤ CAP` (R20). -/
structure State.RingOk (s : State) : Prop where
  cfgWf    : s.cfg.wf = true
  wpRange  : s.wp < 2 * s.cfg.cap
  rpRange  : s.rp < 2 * s.cfg.cap
  levelLe  : s.level ≤ s.cfg.cap

/-- Ring storage is in canonical form, names no slot at or above CAP (R17), and every live slot has been written
(R46). -/
structure State.StorageOk (s : State) : Prop where
  memWf       : Memory.wf s.mem = true
  memSlots    : ∀ c ∈ s.mem, c.1 < s.cfg.cap
  liveWritten : ∀ k < s.level, (Memory.read s.mem (s.liveSlot k)).isSome = true

/-- The accumulator's invariant (R23), for a stage and an accumulator. -/
def accOk : Stage → Word32 → Prop
  | .awaitSync, acc => acc = 0
  | .readChan, acc => acc = 0
  | .readHigh, acc => acc.extractLsb' 24 8 = 0 ∧ acc.extractLsb' 0 16 = 0
  | .readLow, acc => acc.extractLsb' 24 8 = 0 ∧ acc.extractLsb' 0 8 = 0

/-- The `PSTATE` values each drain mode reaches (R27). -/
def pstateOk : DrainMode → PState → Prop
  | .nb, p => p = .idle ∨ p = .draining ∨ p = .stopped
  | .coop, p => p = .running ∨ p = .yielding ∨ p = .stopped

/-- The invariant of a core that has been reset. -/
structure State.Inv (s : State) : Prop where
  ring        : s.RingOk
  storage     : s.StorageOk
  accStage    : accOk s.stage s.acc
  pstateMode  : pstateOk s.cfg.drainMode s.pstate
  pendingIff  : s.cpPending = true ↔ s.pstate = .draining

/-- What a run of bytes fed to the decoder determines (R84). -/
structure DecoderView where
  stage     : Stage
  acc       : Word32
  ch        : Vector Word16 16
  oorCnt    : Word32
  desyncCnt : Word32
  deriving DecidableEq, Repr

/-- The decoder's part of a state. -/
def State.decoderView (s : State) : DecoderView := ⟨s.stage, s.acc, s.ch, s.oorCnt, s.desyncCnt⟩

/-- The state after feeding a list of bytes, first one first. -/
def State.feedAll (s : State) : List Byte → State
  | [] => s
  | b :: bs => (s.feed b).feedAll bs

/-- The events of feeding a list of bytes, in order. -/
def State.feedEvents (s : State) : List Byte → List Event
  | [] => []
  | b :: bs => s.feedEvent b :: (s.feed b).feedEvents bs

/-- The value of the latest EMIT for channel `i` in a list of events, `v` where there is none (R87). -/
def latestEmit (i : Byte) (v : Word16) : List Event → Word16
  | [] => v
  | .emit j w :: es => latestEmit i (if j = i then w else v) es
  | .none :: es => latestEmit i v es
  | .discard :: es => latestEmit i v es
  | .restart :: es => latestEmit i v es
  | .outOfRange _ :: es => latestEmit i v es

/-- The state after PUSHing a list of bytes, first one first, with no other transition in between. -/
def State.pushAll (s : State) : List Byte → State
  | [] => s
  | b :: bs => (s.pushByte b).pushAll bs

/-- The bytes that a list of words offered on the producer port pushes, in order: an illegal word pushes none (R57). -/
def pushedBytes : List Word16 → List Byte
  | [] => []
  | w :: ws =>
    match decode .producer w with
    | .instr (.push b) => b :: pushedBytes ws
    | .instr _ => pushedBytes ws
    | .illegal _ => pushedBytes ws

/-- `k` steps of the machine. -/
def run (k : Nat) (s : State) : Answer := Host.Core.run Sys2Proof.core k s

/-- The state an answer holds, none where it is a fault or a refusal. -/
def stateOf : Answer → Option State
  | .next s => some s
  | .fault _ => none
  | .refused _ => none

/-- An execution (R43): a state at every time, and the transition taken there, none where no agent steps. Each
transition is enabled in the state it is taken in. Endless executions and fairness stand here and not in `step`
(assumption 13, DEDUCED, safe). -/
structure Execution where
  state  : Nat → State
  taken  : Nat → Option Transition
  steps  : ∀ n, match taken n with
    | some t => t.enabled (state n) = true ∧ fire t (state n) = .next (state (n + 1))
    | none => state (n + 1) = state n

/-- An execution of a core that has been reset starts at a reset state (R118; assumption 19, DEDUCED, safe). -/
def Execution.FromReset (x : Execution) : Prop := ∃ c : Config, c.wf = true ∧ x.state 0 = State.resetOf c

/-- Weak fairness to one transition: where it stays enabled it is eventually taken. -/
def Execution.FairTo (x : Execution) (t : Transition) : Prop :=
  ∀ n, (∀ m, n ≤ m → t.enabled (x.state m) = true) → ∃ m, n ≤ m ∧ x.taken m = some t

/-- Weak fairness to the pump and to the scheduler (R44). The producer and the host are under no obligation. -/
def Execution.Fair (x : Execution) : Prop := x.FairTo .pump ∧ x.FairTo .yieldDone

end Sys2Proof.Machine
end

