-- ==== Sys2Proof/Certificates/Slice0/Obligations.lean ====
section
/-! DEFINITION. The statements about the model, each a Prop whose docstring names the rules of spec/ it formalises. -/

open Sys2Proof Sys2Proof.Machine

/-! ### Command words and responses -/

/-- Decoding and encoding are inverse to each other: on a port, a word decodes to an instruction exactly when the port
carries that instruction and the word is its encoding (30_encoding.md R55, R56, R58). -/
def Obligations.DecodeIsExactlyTheInverseOfEncode : Prop :=
  ∀ (p : Port) (w : Word16) (i : Instr), decode p w = .instr i ↔ (p = i.port ∧ w = encode i)

/-- Command words written out from the opcode map (R55) decode to the commands they stand for, at boundary operands. -/
def Obligations.OpcodeMapWordsDecodeToTheirCommands : Prop :=
  decode .producer 0x10B5 = .instr (.push 0xB5) ∧
  decode .producer 0x1000 = .instr (.push 0x00) ∧
  decode .control 0x2000 = .instr .pop ∧
  decode .control 0x30FF = .instr (.step 0xFF) ∧
  decode .control 0x400F = .instr (.get 0x0F) ∧
  decode .control 0x5000 = .instr .drain ∧
  decode .control 0x6000 = .instr .resync ∧
  decode .control 0x7000 = .instr .teardown ∧
  decode .control 0x8002 = .instr (.rdcnt 0x02) ∧
  decode .control 0x9000 = .instr .rdstat

/-- R57: which command words are illegal, that an illegal word changes no state and is answered with status ILLEGAL
(0x04) and data 0, and that every other word is a command. -/
def Obligations.IllegalWordsAreAnsweredAndChangeNothing : Prop :=
  ∀ (p : Port) (w : Word16),
    ((w.extractLsb' 12 4 = 0 ∨ 0xA ≤ (w.extractLsb' 12 4).toNat ∨
        w.extractLsb' 8 4 ≠ 0 ∨
        (w.extractLsb' 0 8 ≠ 0 ∧ (w.extractLsb' 12 4).toNat ∈ [2, 5, 6, 7, 9]) ∨
        (p = .control ∧ w.extractLsb' 12 4 = 1) ∨
        (p = .producer ∧ w.extractLsb' 12 4 ≠ 1)) →
      ∀ s : State, issue p w s = .next { s with responses := ⟨p, 0x0400000000⟩ :: s.responses }) ∧
    (¬ (w.extractLsb' 12 4 = 0 ∨ 0xA ≤ (w.extractLsb' 12 4).toNat ∨
        w.extractLsb' 8 4 ≠ 0 ∨
        (w.extractLsb' 0 8 ≠ 0 ∧ (w.extractLsb' 12 4).toNat ∈ [2, 5, 6, 7, 9]) ∨
        (p = .control ∧ w.extractLsb' 12 4 = 1) ∨
        (p = .producer ∧ w.extractLsb' 12 4 ≠ 1)) →
      ∃ i : Instr, w = encode i ∧ ∀ s : State, issue p w s = exec i s)

/-- R59: the layout of the response word, for every status and data. -/
def Obligations.ResponseWordHasStatusAboveData : Prop :=
  ∀ (st : Status) (d : Word32),
    (rspWord st d).extractLsb' 32 8 = st.code ∧ (rspWord st d).extractLsb' 0 32 = d

/-- R60: which commands produce which status codes, and that no code from 0x08 up is ever produced. A DRAIN's own OK is
given by the pump step that completes it. -/
def Obligations.EachCommandReportsOnlyItsStatuses : Prop :=
  (∀ (i : Instr) (s t : State) (r : Response),
    exec i s = .next t → t.responses = r :: s.responses →
      (rspStatus r.word).toNat ∈
        (match i with
          | .push _ => [0x00, 0x02]
          | .pop => [0x00, 0x01, 0x05, 0x06]
          | .step _ => [0x00, 0x05, 0x06]
          | .get _ => [0x00, 0x03]
          | .drain => [0x06, 0x07]
          | .resync => [0x00, 0x06]
          | .teardown => [0x00]
          | .rdcnt _ => [0x00, 0x03]
          | .rdstat => [0x00])) ∧
  (∀ s t : State, step s = .next t →
    t.responses = s.responses ∨
      ∃ r, t.responses = r :: s.responses ∧ (rspStatus r.word).toNat ≤ 0x07)

/-- R52, R53, R93: a command word accepted on a port is answered by exactly one response on that port, in the same
transition, unless it starts a DRAIN; then the DRAIN is outstanding and nothing is answered yet. -/
def Obligations.EveryAcceptedWordIsAnsweredOnceOnItsPort : Prop :=
  ∀ (p : Port) (w : Word16) (s : State), ∃ t : State, issue p w s = .next t ∧
    ((∃ r : Response, t.responses = r :: s.responses ∧ r.port = p ∧ t.cpPending = s.cpPending) ∨
      (p = .control ∧ w = 0x5000 ∧ s.cfg.drainMode = .nb ∧ t.responses = s.responses ∧ t.cpPending = true))

/-! ### The step and the ports -/

/-- A step runs the decoded instruction: where the next turn is the producer's, or is the host's and no DRAIN is
outstanding, and that agent's next word decodes on its port to `i`, the step is `exec i` of the state with that turn and
that word taken (R42, R52, R53, R58). That `turns` says who steps next is the model's choice (assumption 3). -/
def Obligations.StepRunsTheDecodedInstruction : Prop :=
  (∀ (s : State) (as : List Agent) (w : Word16) (ws : List Word16) (i : Instr),
    s.turns = .producer :: as → s.producerIn = w :: ws → decode .producer w = .instr i →
      step s = exec i { s with turns := as, producerIn := ws }) ∧
  (∀ (s : State) (as : List Agent) (w : Word16) (ws : List Word16) (i : Instr),
    s.turns = .host :: as → s.cpPending = false → s.hostIn = w :: ws → decode .control w = .instr i →
      step s = exec i { s with turns := as, hostIn := ws })

/-- R53: the control port accepts a command only while no DRAIN is outstanding, and while one is the host waits with
its word; the producer port always accepts. That `turns` says who steps next, and that the host's turn passes while it
waits, are the model's choices (assumptions 3, 7). -/
def Obligations.ControlPortAcceptsOnlyWhileNothingIsPending : Prop :=
  (∀ (s : State) (w : Word16), (Transition.control w).enabled s = true ↔ s.cpPending = false) ∧
  (∀ (s : State) (as : List Agent), s.turns = .host :: as → s.cpPending = true →
    step s = .next { s with turns := as }) ∧
  (∀ (s : State) (as : List Agent) (w : Word16) (ws : List Word16),
    s.turns = .host :: as → s.cpPending = false → s.hostIn = w :: ws →
      step s = issue .control w { s with turns := as, hostIn := ws }) ∧
  (∀ (s : State) (w : Word16), (Transition.producer w).enabled s = true) ∧
  (∀ (s : State) (as : List Agent) (w : Word16) (ws : List Word16),
    s.turns = .producer :: as → s.producerIn = w :: ws →
      step s = issue .producer w { s with turns := as, producerIn := ws })

/-- R103: no condition of the core is fatal. From every state, every step and every command answers a next state. -/
def Obligations.NoConditionStopsTheCore : Prop :=
  (∀ s : State, ∃ t, step s = .next t) ∧ (∀ (i : Instr) (s : State), ∃ t, exec i s = .next t)

/-- R42, R43: a step takes the one transition that the agent whose turn it is has, where that transition is enabled, and
of the inputs uses up only the turn and the word issued. Where that agent has none, the step changes only the list of
turns. That the turns are listed in the state, that the pump and the scheduler go on when none is listed, and that a turn
with nothing to do passes are the model's choices (assumptions 3, 4, 7). -/
def Obligations.AStepTakesAtMostOneEnabledTransition : Prop :=
  ∀ s t : State, step s = .next t → ∃ s₀ : State, s₀ = { s with turns := s.turns.tail } ∧
    ((∃ (w : Word16) (ws : List Word16), s.turns.head? = some .producer ∧ s.producerIn = w :: ws ∧
        (Transition.producer w).enabled s₀ = true ∧
        fire (.producer w) { s₀ with producerIn := ws } = .next t) ∨
      (∃ (w : Word16) (ws : List Word16), s.turns.head? = some .host ∧ s.hostIn = w :: ws ∧
        (Transition.control w).enabled s₀ = true ∧
        fire (.control w) { s₀ with hostIn := ws } = .next t) ∨
      ((s.turns.head? = some .pump ∨ s.turns.head? = none) ∧
        Transition.enabled s₀ .pump = true ∧ fire .pump s₀ = .next t) ∨
      ((s.turns.head? = some .scheduler ∨ s.turns.head? = none) ∧
        Transition.enabled s₀ .yieldDone = true ∧ fire .yieldDone s₀ = .next t) ∨
      (s.turns.head? = some .reset ∧ Transition.enabled s₀ .reset = true ∧ fire .reset s₀ = .next t) ∨
      (t = s₀ ∧
        ((s.turns.head? = some .producer ∧ s.producerIn = []) ∨
          (s.turns.head? = some .host ∧ (s.hostIn = [] ∨ ∀ w, (Transition.control w).enabled s₀ = false)) ∨
          (s.turns.head? = some .pump ∧ Transition.enabled s₀ .pump = false) ∨
          (s.turns.head? = some .scheduler ∧ Transition.enabled s₀ .yieldDone = false) ∨
          (s.turns.head? = none ∧ Transition.enabled s₀ .pump = false ∧
            Transition.enabled s₀ .yieldDone = false))))

/-- R43, R106: every enabled transition is what some step takes, in a state that differs only in the inputs it
holds (the model's form of "which enabled agent steps next is not fixed": assumption 3). -/
def Obligations.EveryEnabledTransitionIsSomeStep : Prop :=
  ∀ (l : Transition) (s : State), l.enabled s = true →
    ∃ s₀ : State,
      s₀ = { s with turns := s₀.turns, producerIn := s₀.producerIn, hostIn := s₀.hostIn } ∧
      step s₀ = fire l s

/-! ### Reset and the invariants -/

/-- R32: the value every state element holds after reset, for every configuration. Ring storage is unspecified: no slot
holds a value the model knows. -/
def Obligations.ResetLeavesTheGivenValues : Prop :=
  ∀ c : Config,
    (State.resetOf c).cfg = c ∧
    (∀ k, Memory.read (State.resetOf c).mem k = none) ∧
    (State.resetOf c).wp = 0 ∧ (State.resetOf c).rp = 0 ∧
    (State.resetOf c).level = 0 ∧ (State.resetOf c).queue = [] ∧
    (State.resetOf c).stage = .awaitSync ∧ (State.resetOf c).acc = 0 ∧
    (∀ i : Byte, (State.resetOf c).channel i = 0) ∧
    (State.resetOf c).ovfCnt = 0 ∧ (State.resetOf c).oorCnt = 0 ∧ (State.resetOf c).desyncCnt = 0 ∧
    (c.drainMode = .nb → (State.resetOf c).pstate = .idle) ∧
    (c.drainMode = .coop → (State.resetOf c).pstate = .running) ∧
    (State.resetOf c).drainN = 0 ∧ (State.resetOf c).cpPending = false

/-- R116: reset is one transition, enabled in every state, that sets every state element to its value of R32 and gives
no response, so an outstanding DRAIN is abandoned without one. A byte pushed before it is lost, and a byte pushed after
it is the first of the new queue. -/
def Obligations.ResetTransitionSetsEveryElement : Prop :=
  ∀ s : State, Transition.enabled s .reset = true ∧
    ∃ t : State, fire .reset s = .next t ∧
      t.cfg = s.cfg ∧ t.mem = [] ∧ t.wp = 0 ∧ t.rp = 0 ∧ t.queue = [] ∧
      t.stage = .awaitSync ∧ t.acc = 0 ∧ (∀ i : Byte, t.channel i = 0) ∧
      t.ovfCnt = 0 ∧ t.oorCnt = 0 ∧ t.desyncCnt = 0 ∧
      (s.cfg.drainMode = .nb → t.pstate = .idle) ∧ (s.cfg.drainMode = .coop → t.pstate = .running) ∧
      t.drainN = 0 ∧ t.cpPending = false ∧ t.responses = s.responses ∧
      (∀ (b : Byte) (u : State), exec (.push b) s = .next u → ∃ v, fire .reset u = .next v ∧ v.queue = []) ∧
      (s.cfg.wf = true → ∀ b : Byte, ∃ u, exec (.push b) t = .next u ∧ u.queue = [b])

/-- The invariant of a core that has been reset holds right after reset, for every admitted configuration, and so of the
machine's own reset state, which is the model's choice of instance (assumption 1) (R20, R23, R27, R28, R32). -/
def Obligations.ResetStateMeetsTheCoreInvariant : Prop :=
  (∀ c : Config, c.wf = true → (State.resetOf c).Inv) ∧ State.reset.Inv

/-- Every step keeps the invariant: the pointers stay in range and LEVEL ≤ CAP (R15, R20), ring storage keeps its
canonical form and every live slot has been written (R17, R46), the accumulator agrees with the stage (R23), PSTATE is
one its drain mode reaches (R27), and CP_PENDING is true exactly while a DRAIN is in progress (R28). -/
def Obligations.EveryStepKeepsTheCoreInvariant : Prop :=
  ∀ s t : State, s.Inv → step s = .next t → t.Inv

/-- R20: `0 ≤ LEVEL ≤ CAP` at every state: reset establishes it, and PUSH, pop and every other transition preserve it
(with the configuration admitted and both pointers in [0, 2·CAP), the ranges of R15). -/
def Obligations.LevelNeverExceedsCapacity : Prop :=
  (∀ c : Config, c.wf = true → (State.resetOf c).RingOk) ∧
  (∀ (s t : State) (b : Byte), s.RingOk → exec (.push b) s = .next t → t.RingOk) ∧
  (∀ (s t : State) (b : Byte), s.RingOk → s.popInternal = some (b, t) → t.RingOk) ∧
  (∀ (s t : State) (l : Transition), s.RingOk → fire l s = .next t → t.RingOk)

/-- R23: the accumulator's invariant holds after reset and every transition keeps it. -/
def Obligations.AccumulatorAgreesWithStage : Prop :=
  (∀ c : Config, accOk (State.resetOf c).stage (State.resetOf c).acc) ∧
  (∀ (s t : State) (l : Transition), accOk s.stage s.acc → fire l s = .next t → accOk t.stage t.acc)

/-! ### Commands: their whole effect -/

/-- R67: PUSH at LEVEL = CAP drops and counts the byte and answers FULL; otherwise it stores the byte at slot
`WP mod CAP`, advances WP and answers OK. `PSTATE` is not read. -/
def Obligations.PushStoresTheByteOrCountsTheOverflow : Prop :=
  ∀ b : Byte,
    (∀ (p : Port) (w : Word16),
      decode p w = .instr (.push b) ↔ p = .producer ∧ w = 0x1000 ||| b.zeroExtend 16) ∧
    (∀ s : State, s.level = s.cfg.cap →
      exec (.push b) s = .next { s with
        ovfCnt := s.ovfCnt + 1
        responses := ⟨.producer, 0x0200000000⟩ :: s.responses }) ∧
    (∀ s : State, s.level ≠ s.cfg.cap →
      exec (.push b) s = .next { s with
        mem := Memory.write s.mem (s.wp % s.cfg.cap) b
        wp := (s.wp + 1) % (2 * s.cfg.cap)
        responses := ⟨.producer, 0x0000000000⟩ :: s.responses })

/-- R70: POP by the pump's state and the level. `PSTATE = DRAINING` cannot occur when POP is accepted. -/
def Obligations.PopAnswersByPumpStateAndLevel : Prop :=
  (∀ (p : Port) (w : Word16), decode p w = .instr .pop ↔ p = .control ∧ w = 0x2000) ∧
  (∀ s : State, s.pstate = .stopped →
    exec .pop s = .next { s with responses := ⟨.control, 0x0600000000⟩ :: s.responses }) ∧
  (∀ s : State, s.pstate = .running ∨ s.pstate = .yielding →
    exec .pop s = .next { s with responses := ⟨.control, 0x0500000000⟩ :: s.responses }) ∧
  (∀ s : State, s.pstate = .idle → s.level = 0 →
    exec .pop s = .next { s with responses := ⟨.control, 0x0100000000⟩ :: s.responses }) ∧
  (∀ s : State, s.pstate = .idle → s.level ≠ 0 →
    exec .pop s = .next { s with
      rp := (s.rp + 1) % (2 * s.cfg.cap)
      responses := ⟨.control, (s.memRead (s.rp % s.cfg.cap)).zeroExtend 40⟩ :: s.responses }) ∧
  (∀ s : State, s.Inv → s.pstate = .draining → ∀ w : Word16, (Transition.control w).enabled s = false)

/-- R81: STEP feeds its byte to the decoder in IDLE and answers OK with the event word of the event fed, and answers
STOPPED or BUSY otherwise. -/
def Obligations.StepCommandFeedsItsByteAndReportsTheEvent : Prop :=
  ∀ b : Byte,
    (∀ (p : Port) (w : Word16),
      decode p w = .instr (.step b) ↔ p = .control ∧ w = 0x3000 ||| b.zeroExtend 16) ∧
    (∀ s : State, s.pstate = .stopped →
      exec (.step b) s = .next { s with responses := ⟨.control, 0x0600000000⟩ :: s.responses }) ∧
    (∀ s : State, s.pstate = .running ∨ s.pstate = .yielding →
      exec (.step b) s = .next { s with responses := ⟨.control, 0x0500000000⟩ :: s.responses }) ∧
    (∀ s : State, s.pstate = .idle → ∃ d : Word32,
      exec (.step b) s = .next { s.feed b with
        responses := ⟨.control, (0x00 : Byte) ++ d⟩ :: s.responses } ∧
      (match (decodeStep s.cfg.syncPolicy s.stage s.acc b).2.2 with
        | .none => d = 0
        | .emit i v => d = v ++ i ++ (0x01 : Byte)
        | .outOfRange i => d = (0 : Word16) ++ i ++ (0x02 : Byte)
        | .discard => d = 3
        | .restart => d = 4))

/-- R86: GET of an index 0..15 answers OK with the register sign-extended to 32 bits, of any other index NOTFOUND, in
every PSTATE. -/
def Obligations.GetReadsTheChannelSignExtended : Prop :=
  ∀ n : Byte,
    (∀ (p : Port) (w : Word16),
      decode p w = .instr (.get n) ↔ p = .control ∧ w = 0x4000 ||| n.zeroExtend 16) ∧
    (∀ (s : State) (h : n.toNat < 16),
      exec (.get n) s = .next { s with
        responses := ⟨.control, (0x00 : Byte) ++ (s.ch[n.toNat]'h).signExtend 32⟩ :: s.responses }) ∧
    (∀ s : State, 16 ≤ n.toNat →
      exec (.get n) s = .next { s with responses := ⟨.control, 0x0300000000⟩ :: s.responses })

/-- R92: DRAIN in a COOP instance answers MODE, in a stopped NB instance STOPPED; otherwise it starts a drain and gives
no response now. A DRAIN of an empty buffer completes at the first pump step, with data 0. A byte pushed while the DRAIN
is in progress joins the queue, and the pump goes on feeding it. -/
def Obligations.DrainStartsANonBlockingDrain : Prop :=
  (∀ (p : Port) (w : Word16), decode p w = .instr .drain ↔ p = .control ∧ w = 0x5000) ∧
  (∀ s : State, s.cfg.drainMode = .coop →
    exec .drain s = .next { s with responses := ⟨.control, 0x0700000000⟩ :: s.responses }) ∧
  (∀ s : State, s.cfg.drainMode = .nb → s.pstate = .stopped →
    exec .drain s = .next { s with responses := ⟨.control, 0x0600000000⟩ :: s.responses }) ∧
  (∀ s : State, s.cfg.drainMode = .nb → s.pstate = .idle →
    exec .drain s = .next { s with pstate := .draining, drainN := 0, cpPending := true } ∧
    (s.level = 0 → fire .pump { s with pstate := .draining, drainN := 0, cpPending := true } =
      .next { s with drainN := 0, cpPending := false, responses := ⟨.control, 0x0000000000⟩ :: s.responses })) ∧
  (∀ (s : State) (b : Byte), s.RingOk → s.pstate = .draining → s.level ≠ s.cfg.cap →
    ∃ t u, exec (.push b) s = .next t ∧ t.queue = s.queue ++ [b] ∧
      fire .pump t = .next u ∧ u.pstate = .draining ∧ u.queue = t.queue.tail)

/-- R82: RESYNC returns the decoder to AwaitingSync with an empty accumulator, in every PSTATE but STOPPED. -/
def Obligations.ResyncReturnsTheDecoderToAwaitingSync : Prop :=
  (∀ (p : Port) (w : Word16), decode p w = .instr .resync ↔ p = .control ∧ w = 0x6000) ∧
  (∀ s : State, s.pstate = .stopped →
    exec .resync s = .next { s with responses := ⟨.control, 0x0600000000⟩ :: s.responses }) ∧
  (∀ s : State, s.pstate ≠ .stopped →
    exec .resync s = .next { s with
      stage := .awaitSync
      acc := 0
      responses := ⟨.control, 0x0000000000⟩ :: s.responses })

/-- R99: TEARDOWN stops the pump and discards a partial frame, in every PSTATE, and answers OK; a repeated one changes
nothing more. After it no pump step or YIELD_DONE is enabled, POP, STEP, RESYNC and (in an NB instance) DRAIN answer
STOPPED, PUSH, GET, RDCNT and RDSTAT still do what they do, and STOPPED lasts until reset. It cannot arrive while a
DRAIN is outstanding. -/
def Obligations.TeardownStopsTheStreamUntilReset : Prop :=
  (∀ (p : Port) (w : Word16), decode p w = .instr .teardown ↔ p = .control ∧ w = 0x7000) ∧
  (∀ s : State, s.cpPending = true → (Transition.control 0x7000).enabled s = false) ∧
  ∀ s : State, ∃ t : State, exec .teardown s = .next t ∧
    t = { s with
      pstate := .stopped
      stage := .awaitSync
      acc := 0
      responses := ⟨.control, 0x0000000000⟩ :: s.responses } ∧
    exec .teardown t = .next { t with responses := ⟨.control, 0x0000000000⟩ :: t.responses } ∧
    Transition.enabled t .pump = false ∧ Transition.enabled t .yieldDone = false ∧
    (∀ i : Instr, i = .pop ∨ (∃ b, i = .step b) ∨ i = .resync ∨ (i = .drain ∧ s.cfg.drainMode = .nb) →
      exec i t = .next { t with responses := ⟨.control, 0x0600000000⟩ :: t.responses }) ∧
    (∀ b : Byte, s.level ≠ s.cfg.cap → ∃ u, exec (.push b) t = .next u ∧
      u.mem = Memory.write s.mem (s.wp % s.cfg.cap) b ∧ u.wp = (s.wp + 1) % (2 * s.cfg.cap) ∧
      u.responses = ⟨.producer, 0x0000000000⟩ :: t.responses) ∧
    (∀ n : Byte, n.toNat < 16 → ∃ u, exec (.get n) t = .next u ∧
      u.responses = ⟨.control, (0x00 : Byte) ++ (s.channel n).signExtend 32⟩ :: t.responses) ∧
    (∀ k : Byte, k.toNat < 3 → ∃ u r, exec (.rdcnt k) t = .next u ∧
      u.responses = r :: t.responses ∧ rspStatus r.word = 0x00) ∧
    (∃ u r, exec .rdstat t = .next u ∧ u.responses = r :: t.responses ∧ rspStatus r.word = 0x00) ∧
    (∀ (l : Transition) (u v : State), l ≠ .reset → u.pstate = .stopped → fire l u = .next v → v.pstate = .stopped)

/-- R101: RDCNT 0, 1 and 2 answer OK with the three counters, any other selector NOTFOUND; no counter changes. -/
def Obligations.RdcntReadsTheSelectedCounter : Prop :=
  ∀ k : Byte,
    (∀ (p : Port) (w : Word16),
      decode p w = .instr (.rdcnt k) ↔ p = .control ∧ w = 0x8000 ||| k.zeroExtend 16) ∧
    (∀ s : State, k = 0 →
      exec (.rdcnt k) s = .next { s with
        responses := ⟨.control, (0x00 : Byte) ++ s.ovfCnt⟩ :: s.responses }) ∧
    (∀ s : State, k = 1 →
      exec (.rdcnt k) s = .next { s with
        responses := ⟨.control, (0x00 : Byte) ++ s.oorCnt⟩ :: s.responses }) ∧
    (∀ s : State, k = 2 →
      exec (.rdcnt k) s = .next { s with
        responses := ⟨.control, (0x00 : Byte) ++ s.desyncCnt⟩ :: s.responses }) ∧
    (∀ s : State, 3 ≤ k.toNat →
      exec (.rdcnt k) s = .next { s with responses := ⟨.control, 0x0300000000⟩ :: s.responses })

/-- R31, R102: RDSTAT answers OK with the status word, whose fields lie where the layout puts them. `LEVEL` fits its
16 bits because CAP ≤ 65535, so the premise asks only for that. -/
def Obligations.RdstatPacksTheStatusFields : Prop :=
  (∀ (p : Port) (w : Word16), decode p w = .instr .rdstat ↔ p = .control ∧ w = 0x9000) ∧
  ∀ s : State, s.level ≤ 65535 → ∃ d : Word32,
    exec .rdstat s = .next { s with responses := ⟨.control, (0x00 : Byte) ++ d⟩ :: s.responses } ∧
    (d.extractLsb' 0 3).toNat =
      (match s.pstate with
        | .idle => 0 | .draining => 1 | .running => 2 | .yielding => 3 | .stopped => 4) ∧
    d.extractLsb' 3 1 = 0 ∧
    (d.extractLsb' 4 2).toNat =
      (match s.stage with
        | .awaitSync => 0 | .readChan => 1 | .readHigh => 2 | .readLow => 3) ∧
    d.getLsbD 6 = decide (s.cfg.drainMode = .coop) ∧
    d.getLsbD 7 = decide (s.cfg.syncPolicy = .resync) ∧
    d.getLsbD 8 = decide (s.level = 0) ∧
    d.getLsbD 9 = decide (s.level = s.cfg.cap) ∧
    d.extractLsb' 10 6 = 0 ∧
    (d.extractLsb' 16 16).toNat = s.level

/-! ### Frames: what the commands leave unchanged -/

/-- GET, RDCNT and RDSTAT have no side effect (R39): they change no register, no counter, no pointer, no byte of ring
storage and no input; they only answer, and repeating one with nothing in between answers the same. -/
def Obligations.ReadCommandsOnlyAnswer : Prop :=
  ∀ (i : Instr) (s t : State), ((∃ n, i = .get n) ∨ (∃ k, i = .rdcnt k) ∨ i = .rdstat) → exec i s = .next t →
    (∀ a, Memory.read t.mem a = Memory.read s.mem a) ∧
    ∃ r : Response, t = { s with responses := r :: s.responses } ∧
      exec i t = .next { s with responses := r :: r :: s.responses }

/-- The frame of PUSH (R16, R67). Stored, it changes WP and the byte at slot `pushSlot s` (`WP mod CAP`, the slot its
meaning stores to), which then reads as the byte pushed; every other slot reads as before and nothing else changes but
the answer. Rejected, it changes OVF_CNT alone and every slot reads as before. -/
def Obligations.PushChangesOnlyItsSlotPointerAndCount : Prop :=
  ∀ (b : Byte) (s t : State), exec (.push b) s = .next t →
    t = { s with mem := t.mem, wp := t.wp, ovfCnt := t.ovfCnt, responses := t.responses } ∧
    (s.level = s.cfg.cap → t.wp = s.wp ∧ ∀ a, Memory.read t.mem a = Memory.read s.mem a) ∧
    (s.level ≠ s.cfg.cap → t.ovfCnt = s.ovfCnt ∧
      (∀ a, a = s.pushSlot → Memory.read t.mem a = some b) ∧
      (∀ a, a ≠ s.pushSlot → Memory.read t.mem a = Memory.read s.mem a))

/-- The frames of the commands that act on the consumer side: POP, STEP, RESYNC, DRAIN and TEARDOWN store no byte of
ring storage, and change nothing but the elements named for each (R69, R79, R82, R92, R99). -/
def Obligations.ConsumerCommandsChangeOnlyWhatTheirRuleNames : Prop :=
  (∀ (i : Instr) (s t : State), (i = .pop ∨ (∃ b, i = .step b) ∨ i = .resync ∨ i = .drain ∨ i = .teardown) →
    exec i s = .next t → ∀ a, Memory.read t.mem a = Memory.read s.mem a) ∧
  (∀ s t : State, exec .pop s = .next t →
    t = { s with rp := t.rp, responses := t.responses }) ∧
  (∀ (b : Byte) (s t : State), exec (.step b) s = .next t →
    t = { s with
      stage := t.stage
      acc := t.acc
      ch := t.ch
      oorCnt := t.oorCnt
      desyncCnt := t.desyncCnt
      responses := t.responses }) ∧
  (∀ s t : State, exec .resync s = .next t →
    t = { s with stage := t.stage, acc := t.acc, responses := t.responses }) ∧
  (∀ s t : State, exec .drain s = .next t →
    t = { s with
      pstate := t.pstate
      drainN := t.drainN
      cpPending := t.cpPending
      responses := t.responses }) ∧
  (∀ s t : State, exec .teardown s = .next t →
    t = { s with pstate := t.pstate, stage := t.stage, acc := t.acc, responses := t.responses })

/-- R16: the producer's transitions write only `MEM[WP mod CAP]`, `WP` and `OVF_CNT`; the control port's commands, the
pump and YIELD_DONE write only the consumer side's elements; reset writes all state (its result depends on nothing of
the state before but the parameters). -/
def Obligations.EachSideWritesOnlyItsOwnElements : Prop :=
  (∀ (w : Word16) (s t : State), fire (.producer w) s = .next t →
    t = { s with mem := t.mem, wp := t.wp, ovfCnt := t.ovfCnt, responses := t.responses } ∧
    ∀ a, a ≠ s.wp % s.cfg.cap → Memory.read t.mem a = Memory.read s.mem a) ∧
  (∀ (l : Transition) (s t : State),
    ((∃ w, l = .control w) ∨ l = .pump ∨ l = .yieldDone) → fire l s = .next t →
    t = { s with
      rp := t.rp
      stage := t.stage
      acc := t.acc
      ch := t.ch
      oorCnt := t.oorCnt
      desyncCnt := t.desyncCnt
      pstate := t.pstate
      drainN := t.drainN
      cpPending := t.cpPending
      responses := t.responses }) ∧
  (∀ s s' t t' : State, s.cfg = s'.cfg → fire .reset s = .next t → fire .reset s' = .next t' →
    t' = { t with
      resets := t'.resets
      producerIn := s'.producerIn
      hostIn := s'.hostIn
      turns := s'.turns
      responses := s'.responses })

/-! ### The ring buffer -/

/-- R45, R69: the ring buffer is a bounded first-in first-out queue. A PUSH that finds room appends its byte and one
that does not leaves the queue as it is; POP (in IDLE) and the pump remove the oldest byte and use exactly it; an empty
queue gives no data. -/
def Obligations.RingBufferIsABoundedFifoQueue : Prop :=
  ∀ s : State, s.Inv →
    s.queue.length = s.level ∧
    (∀ b : Byte, ∃ t, exec (.push b) s = .next t ∧
      (s.queue.length < s.cfg.cap → t.queue = s.queue ++ [b]) ∧
      (s.queue.length = s.cfg.cap → t.queue = s.queue)) ∧
    (s.pstate = .idle → s.queue = [] →
      exec .pop s = .next { s with responses := ⟨.control, 0x0100000000⟩ :: s.responses }) ∧
    (∀ (b : Byte) (q : List Byte), s.pstate = .idle → s.queue = b :: q →
      ∃ t, exec .pop s = .next t ∧ t.queue = q ∧
        t.responses = ⟨.control, (0x00 : Byte) ++ b.zeroExtend 32⟩ :: s.responses) ∧
    (∀ (b : Byte) (q : List Byte), s.pstate = .draining ∨ s.pstate = .running → s.queue = b :: q →
      ∃ t, fire .pump s = .next t ∧ t.queue = q ∧ t.decoderView = (s.feed b).decoderView)

/-- R71: the buffer holds exactly CAP bytes: CAP PUSHes from empty are all accepted and fill it with those bytes in
order, and the next PUSH is rejected and leaves them as they are. -/
def Obligations.BufferHoldsExactlyItsCapacity : Prop :=
  ∀ (s : State) (bs : List Byte), s.Inv → s.level = 0 → bs.length = s.cfg.cap →
    (s.pushAll bs).queue = bs ∧ (s.pushAll bs).isFull = true ∧ (s.pushAll bs).ovfCnt = s.ovfCnt ∧
    ∀ b : Byte, ∃ t, exec (.push b) (s.pushAll bs) = .next t ∧
      t.responses = ⟨.producer, 0x0200000000⟩ :: (s.pushAll bs).responses ∧
      t.queue = bs ∧ t.ovfCnt = s.ovfCnt + 1

/-! ### The frame decoder -/

/-- R73: in AwaitingSync a SYNC byte clears the accumulator and starts a frame; any other byte is discarded. -/
def Obligations.AwaitingSyncScansForTheSyncByte : Prop :=
  ∀ (pol : SyncPolicy) (acc : Word32) (b : Byte),
    (b = 0xB5 → decodeStep pol .awaitSync acc b = (.readChan, 0, .none)) ∧
    (b ≠ 0xB5 → decodeStep pol .awaitSync acc b = (.awaitSync, 0, .discard)) ∧
    (∀ s : State, s.stage = .awaitSync → b ≠ 0xB5 → (s.feed b).desyncCnt = s.desyncCnt + 1)

/-- R74, R75, R78: in ReadingChannel and ReadingHigh a byte is stored as the pending index `ACC[23:16]`, or as the high
byte `ACC[15:8]`, and the rest of the accumulator is kept; the index is not checked there. A SYNC byte is such a byte
under LITERAL; under RESYNC it restarts the frame. -/
def Obligations.FrameBytesAreStoredInTheirFields : Prop :=
  ∀ (pol : SyncPolicy) (acc : Word32) (b : Byte), ¬ (pol = .resync ∧ b = 0xB5) →
    (∃ acc', decodeStep pol .readChan acc b = (.readHigh, acc', .none) ∧
      acc'.extractLsb' 16 8 = b ∧ acc'.extractLsb' 24 8 = acc.extractLsb' 24 8 ∧
      acc'.extractLsb' 0 16 = acc.extractLsb' 0 16) ∧
    (∃ acc', decodeStep pol .readHigh acc b = (.readLow, acc', .none) ∧
      acc'.extractLsb' 8 8 = b ∧ acc'.extractLsb' 16 16 = acc.extractLsb' 16 16 ∧
      acc'.extractLsb' 0 8 = acc.extractLsb' 0 8)

/-- R76, R77: the fourth byte completes the frame. With `raw` the high byte of the accumulator and this byte, the value
is `raw − 1024`, exactly for raw 0..33791 and less 65536 above; an index 0..15 always emits it and any other is
OUT_OF_RANGE; the stage returns to AwaitingSync and ACC is cleared either way. -/
def Obligations.FourthByteCompletesTheFrame : Prop :=
  ∀ (pol : SyncPolicy) (acc : Word32) (b : Byte), ¬ (pol = .resync ∧ b = 0xB5) →
    ((acc.extractLsb' 16 8).toNat ≤ 15 → ∃ v : Word16,
      decodeStep pol .readLow acc b = (.awaitSync, 0, .emit (acc.extractLsb' 16 8) v) ∧
      v.toInt =
        (if (acc.extractLsb' 8 8).toNat * 256 + b.toNat ≤ 33791 then
          ((acc.extractLsb' 8 8).toNat * 256 + b.toNat : Int) - 1024
        else ((acc.extractLsb' 8 8).toNat * 256 + b.toNat : Int) - 1024 - 65536)) ∧
    (16 ≤ (acc.extractLsb' 16 8).toNat →
      decodeStep pol .readLow acc b = (.awaitSync, 0, .outOfRange (acc.extractLsb' 16 8)))

/-- R78: a SYNC byte in ReadingChannel, ReadingHigh or ReadingLow. Under LITERAL it is ordinary data (in the channel
position it gives pending index 181, whose frame completes as OUT_OF_RANGE(181)). Under RESYNC it abandons the frame
with no channel write and no count and starts a new one, so no frame whose high or low byte is 0xB5 is ever emitted. -/
def Obligations.SyncByteInsideAFrameFollowsThePolicy : Prop :=
  (∀ (acc : Word32) (stage : Stage), stage ≠ .awaitSync →
    decodeStep .resync stage acc 0xB5 = (.readChan, 0, .restart)) ∧
  (∀ (s : State), s.cfg.syncPolicy = .resync → s.stage ≠ .awaitSync →
    s.feed 0xB5 = { s with stage := .readChan, acc := 0 }) ∧
  (∀ (acc : Word32),
    (decodeStep .literal .readChan acc 0xB5).1 = .readHigh ∧
    (decodeStep .literal .readChan acc 0xB5).2.1.extractLsb' 16 8 = 181 ∧
    (decodeStep .literal .readHigh acc 0xB5).1 = .readLow ∧
    (decodeStep .literal .readHigh acc 0xB5).2.1.extractLsb' 8 8 = 0xB5 ∧
    (decodeStep .literal .readLow acc 0xB5).1 = .awaitSync ∧
    (∀ (s : State) (hi lo : Byte), s.cfg.syncPolicy = .literal → s.stage = .readChan →
      s.feedEvents [0xB5, hi, lo] = [.none, .none, .outOfRange 181])) ∧
  (∀ (s : State) (bs : List Byte) (i : Byte) (v : Word16),
    s.cfg.syncPolicy = .resync → s.stage = .awaitSync → .emit i v ∈ s.feedEvents bs →
      ∃ hi lo : Byte, hi ≠ 0xB5 ∧ lo ≠ 0xB5 ∧ v = frameValue (hi ++ lo))

/-- R79: what each event writes, and that feeding a byte is the decoder step with its event applied. The pump and STEP
feed bytes only so: outside reset, RESYNC and TEARDOWN, the decoder changes only as a fed byte changes it. -/
def Obligations.EventsWriteOnlyTheirElement : Prop :=
  (∀ (s : State) (i : Byte) (v : Word16) (h : i.toNat < 16),
    s.apply (.emit i v) = { s with ch := s.ch.set i.toNat v h }) ∧
  (∀ (s : State) (i : Byte), s.apply (.outOfRange i) = { s with oorCnt := s.oorCnt + 1 }) ∧
  (∀ s : State, s.apply .discard = { s with desyncCnt := s.desyncCnt + 1 }) ∧
  (∀ s : State, s.apply .none = s) ∧ (∀ s : State, s.apply .restart = s) ∧
  (∀ (s : State) (b : Byte) (stage : Stage) (acc : Word32) (ev : Event),
    decodeStep s.cfg.syncPolicy s.stage s.acc b = (stage, acc, ev) →
      s.feed b = State.apply { s with stage := stage, acc := acc } ev ∧ s.feedEvent b = ev) ∧
  (∀ (l : Transition) (s t : State), l ≠ .reset → fire l s = .next t → t.decoderView ≠ s.decoderView →
    (∃ b : Byte, (l = .pump ∨ l = .control (encode (.step b))) ∧ t.decoderView = (s.feed b).decoderView) ∨
    l = .control 0x6000 ∨ l = .control 0x7000)

/-- R83: feeding a well-formed frame `[0xB5, idx, hi, lo]` from AwaitingSync (under RESYNC with no inner byte 0xB5). -/
def Obligations.WellFormedFrameWritesItsChannelAlone : Prop :=
  ∀ (s : State) (idx hi lo : Byte), s.stage = .awaitSync →
    (s.cfg.syncPolicy = .resync → idx ≠ 0xB5 ∧ hi ≠ 0xB5 ∧ lo ≠ 0xB5) →
    (∀ h : idx.toNat < 16,
      s.feedAll [0xB5, idx, hi, lo] = { s with
        stage := .awaitSync
        acc := 0
        ch := s.ch.set idx.toNat (wrap16 ((hi.toNat * 256 + lo.toNat : Int) - 1024)) h }) ∧
    (16 ≤ idx.toNat →
      s.feedAll [0xB5, idx, hi, lo] = { s with stage := .awaitSync, acc := 0, oorCnt := s.oorCnt + 1 })

/-- R84: decoding does not depend on how PUSHes are split or on when the pump runs. Over any run without a reset in which
the host issues no POP, STEP, RESYNC or TEARDOWN (it may issue DRAINs, GET, RDCNT, RDSTAT and illegal words) and no PUSH is
rejected, what the decoder holds once the bytes buffered, and then those still to be pushed, are fed is the same after the
run as before it. So once all of them have reached the decoder it holds what feeding the bytes first buffered, followed by
the bytes pushed, gives. -/
def Obligations.DecodingDoesNotDependOnTheInterleaving : Prop :=
  ∀ (s t : State) (k : Nat) (rs : List Response), s.Inv → Agent.reset ∉ s.turns →
    (∀ w ∈ s.hostIn, decode .control w ≠ .instr .pop ∧ (∀ b, decode .control w ≠ .instr (.step b)) ∧
      decode .control w ≠ .instr .resync ∧ decode .control w ≠ .instr .teardown) →
    run k s = .next t → t.responses = rs ++ s.responses →
    (∀ r ∈ rs, r.port = .producer → rspStatus r.word ≠ 0x02) →
      (t.feedAll (t.queue ++ pushedBytes t.producerIn)).decoderView =
        (s.feedAll (s.queue ++ pushedBytes s.producerIn)).decoderView ∧
      (t.queue = [] → t.producerIn = [] →
        t.decoderView = (s.feedAll (s.queue ++ pushedBytes s.producerIn)).decoderView)

/-- R85: noise before a frame. From AwaitingSync, noise without 0xB5 is discarded and counted and the frame decodes as
without it. Under LITERAL a noise byte 0xB5 starts a false frame that takes the true SYNC byte as its channel index.
Under RESYNC any noise in any stage is harmless to a frame whose bytes 1 to 3 are not 0xB5. -/
def Obligations.NoiseWithoutSyncDoesNotChangeTheFrame : Prop :=
  (∀ (s : State) (ns : List Byte) (idx hi lo : Byte), s.stage = .awaitSync → s.acc = 0 → (∀ n ∈ ns, n ≠ 0xB5) →
    s.feedAll (ns ++ [0xB5, idx, hi, lo]) =
      State.feedAll { s with desyncCnt := s.desyncCnt + BitVec.ofNat 32 ns.length } [0xB5, idx, hi, lo]) ∧
  (∀ (s : State) (ns : List Byte), s.stage = .awaitSync → s.acc = 0 → (∀ n ∈ ns, n ≠ 0xB5) →
    s.cfg.syncPolicy = .literal →
      (s.feedAll (ns ++ [0xB5, 0xB5])).stage = .readHigh ∧
      (s.feedAll (ns ++ [0xB5, 0xB5])).acc = 0x00B50000 ∧
      (s.feedAll (ns ++ [0xB5, 0xB5])).ch = s.ch) ∧
  (∀ (s : State) (ns : List Byte) (idx hi lo : Byte), s.cfg.syncPolicy = .resync →
    idx ≠ 0xB5 → hi ≠ 0xB5 → lo ≠ 0xB5 →
      (∀ h : idx.toNat < 16,
        s.feedAll (ns ++ [0xB5, idx, hi, lo]) = { s.feedAll ns with
          stage := .awaitSync
          acc := 0
          ch := (s.feedAll ns).ch.set idx.toNat (wrap16 ((hi.toNat * 256 + lo.toNat : Int) - 1024)) h }) ∧
      (16 ≤ idx.toNat →
        s.feedAll (ns ++ [0xB5, idx, hi, lo]) = { s.feedAll ns with
          stage := .awaitSync
          acc := 0
          oorCnt := (s.feedAll ns).oorCnt + 1 }))

/-- R80, R110: outside reset, a channel register changes only in a transition that feeds the fourth byte of a frame with
an index 0..15: the decoder was in ReadingLow, it ends in AwaitingSync, and exactly that register holds the frame's
value, made of the high byte in the accumulator and the byte fed: the oldest byte of the buffer where the transition is a
pump step, STEP's operand where it is a STEP. No other transition changes one. -/
def Obligations.ChannelsChangeOnlyWhenAFrameCompletes : Prop :=
  ∀ (l : Transition) (s t : State), l ≠ .reset → fire l s = .next t → t.ch ≠ s.ch →
    s.stage = .readLow ∧ t.stage = .awaitSync ∧ t.acc = 0 ∧
    ∃ b : Byte, ((l = .pump ∧ b = s.memRead (s.rp % s.cfg.cap)) ∨ l = .control (encode (.step b))) ∧
      (s.acc.extractLsb' 16 8).toNat < 16 ∧
      t.ch = s.ch.setIfInBounds (s.acc.extractLsb' 16 8).toNat (frameValue (s.acc.extractLsb' 8 8 ++ b))

/-- R64: the frame encoder's bytes for a value in −1024..64511, and that a frame for a value in −1024..32767 and an
index 0..15 decodes back to that value exactly (under RESYNC where no inner byte is 0xB5). -/
def Obligations.EncodedFrameDecodesBackToItsValue : Prop :=
  ∀ (idx : Byte) (v : Int), -1024 ≤ v → v ≤ 64511 →
    (∃ hi lo : Byte, encodeFrame idx v = [0xB5, idx, hi, lo] ∧
      (hi.toNat : Int) = (v + 1024) / 256 ∧ (lo.toNat : Int) = (v + 1024) % 256) ∧
    (v ≤ 32767 → idx.toNat < 16 → ∀ s : State, s.stage = .awaitSync →
      (s.cfg.syncPolicy = .resync → ∀ b ∈ (encodeFrame idx v).tail, b ≠ 0xB5) →
        ((s.feedAll (encodeFrame idx v)).channel idx).toInt = v)

/-! ### The channel registers -/

/-- R87: GET returns the value of the latest EMIT for its index, or what the register held before where there was none;
from reset that is 0. -/
def Obligations.GetReturnsTheLatestEmittedValue : Prop :=
  ∀ (s : State) (bs : List Byte) (n : Byte), n.toNat < 16 →
    (∃ t, exec (.get n) (s.feedAll bs) = .next t ∧
      t.responses = ⟨.control, (0x00 : Byte) ++
        (latestEmit n (s.channel n) (s.feedEvents bs)).signExtend 32⟩ :: s.responses) ∧
    (∀ c : Config, (State.resetOf c).channel n = 0)

/-! ### The pump -/

/-- R91: which pump steps and YIELD_DONE events each PSTATE enables. -/
def Obligations.PumpAndSchedulerStepsEnabledByPumpState : Prop :=
  ∀ s : State,
    (Transition.enabled s .pump = true ↔ s.pstate = .draining ∨ s.pstate = .running) ∧
    (Transition.enabled s .yieldDone = true ↔ s.pstate = .yielding)

/-- R93: a pump step in DRAINING feeds the oldest byte and counts it, in one transition; where the buffer is empty it
completes the DRAIN with OK and the count. -/
def Obligations.DrainingPumpFeedsOneByteOrCompletes : Prop :=
  ∀ s : State, s.pstate = .draining →
    (s.level ≠ 0 → fire .pump s = .next { ({ s with rp := (s.rp + 1) % (2 * s.cfg.cap) } : State).feed
        (s.memRead (s.rp % s.cfg.cap)) with drainN := s.drainN + 1 }) ∧
    (s.level = 0 → fire .pump s = .next { s with
      pstate := .idle
      cpPending := false
      responses := ⟨.control, (0x00 : Byte) ++ s.drainN⟩ :: s.responses })

/-- R95: a pump step in RUNNING feeds the oldest byte; where the buffer is empty it enters YIELDING. -/
def Obligations.RunningPumpFeedsOneByteOrYields : Prop :=
  ∀ s : State, s.pstate = .running →
    (s.level ≠ 0 → fire .pump s = .next (({ s with rp := (s.rp + 1) % (2 * s.cfg.cap) } : State).feed
        (s.memRead (s.rp % s.cfg.cap)))) ∧
    (s.level = 0 → fire .pump s = .next { s with pstate := .yielding })

/-- R96: YIELD_DONE sets PSTATE to RUNNING and changes nothing else; it has no response. -/
def Obligations.YieldDoneOnlyResumesThePump : Prop :=
  ∀ s : State, s.pstate = .yielding → fire .yieldDone s = .next { s with pstate := .running }

/-- R92, R93, R94: a DRAIN issued to an idle NB instance, with nothing else happening, completes after its acceptance,
one pump step for each buffered byte and one more; it has then fed exactly the queue, oldest byte first, emptied the
buffer, and answered OK with the number of bytes. That the pump steps when no turn is listed is the model's choice
(assumption 4). -/
def Obligations.UndisturbedDrainFeedsTheWholeQueueInOrder : Prop :=
  ∀ (s : State) (ws : List Word16), s.Inv → s.cfg.drainMode = .nb → s.pstate = .idle →
    s.turns = [.host] → s.hostIn = 0x5000 :: ws →
      (∀ k : Nat, 1 ≤ k → k ≤ s.level + 1 → ∃ t, run k s = .next t ∧ t.cpPending = true) ∧
      ∃ t, run (s.level + 2) s = .next t ∧
        t.decoderView = (s.feedAll s.queue).decoderView ∧ t.queue = [] ∧
        t.pstate = .idle ∧ t.cpPending = false ∧ t.ovfCnt = s.ovfCnt ∧
        t.responses = ⟨.control, (0x00 : Byte) ++ BitVec.ofNat 32 s.level⟩ :: s.responses

/-- R94: no bound holds on the bytes one DRAIN consumes. While a PUSH precedes each pump step, the DRAIN stays
outstanding, however long that goes on. -/
def Obligations.DrainFedBeforeEveryPumpStepNeverCompletes : Prop :=
  ∀ (n : Nat) (s : State) (bs : List Byte), s.Inv → s.pstate = .draining → bs.length = n →
    s.producerIn = bs.map (fun b => encode (.push b)) →
    s.turns = (List.replicate n [Agent.producer, Agent.pump]).flatten →
      ∃ t, run (2 * n) s = .next t ∧ t.pstate = .draining ∧ t.cpPending = true ∧
        t.drainN = s.drainN + BitVec.ofNat 32 n

/-- R44, R96: in an execution that is fair to the scheduler a yielding pump leaves YIELDING again. -/
def Obligations.FairYieldingPumpLeavesYielding : Prop :=
  ∀ x : Execution, x.FairTo .yieldDone → ∀ n, (x.state n).pstate = .yielding →
    ∃ m, n < m ∧ (x.state m).pstate ≠ .yielding

/-- R44, R94: in an execution that is fair to the pump, a DRAIN completes (or a reset abandons it) once the producer has
stopped. -/
def Obligations.FairDrainEndsOnceTheProducerStops : Prop :=
  ∀ x : Execution, x.FairTo .pump → ∀ n, (x.state n).Inv → (x.state n).cpPending = true →
    (∀ m, n ≤ m → ∀ w, x.taken m ≠ some (.producer w)) →
      ∃ m, n < m ∧ (x.state m).cpPending = false

/-- R27, R117: STOPPED is absorbing: only a reset leaves it. -/
def Obligations.OnlyResetLeavesStopped : Prop :=
  ∀ s t : State, s.pstate = .stopped → step s = .next t →
    t.pstate = .stopped ∨ s.turns.head? = some .reset

/-- R98: a COOP instance's pump leaves its cycle of RUNNING and YIELDING only by a TEARDOWN, to STOPPED, or by reset. -/
def Obligations.CoopPumpCyclesUntilTeardownOrReset : Prop :=
  ∀ s t : State, s.cfg.drainMode = .coop → (s.pstate = .running ∨ s.pstate = .yielding) → step s = .next t →
    (t.pstate = .running ∨ t.pstate = .yielding) ∨
    (t.pstate = .stopped ∧ s.turns.head? = some .host ∧ s.hostIn.head? = some 0x7000)

/-! ### Conditions -/

/-- R105: each command reports one status, the first that applies in the order ILLEGAL, MODE, STOPPED, BUSY, the
operation's own condition, OK; PUSH, GET, RDCNT, RDSTAT and TEARDOWN never report MODE, STOPPED or BUSY. An accepted DRAIN
reports nothing until the pump step that finds the buffer empty reports its OK (R92, R93). The byte that completes a frame
produces an EMIT where the pending index is 0..15 and an OUT_OF_RANGE otherwise, and no other byte produces either. -/
def Obligations.StatusesAreReportedInTheirPriority : Prop :=
  (∀ (p : Port) (w : Word16) (why : Illegal) (s : State), decode p w = .illegal why →
    issue p w s = .next (s.respond p .illegal 0)) ∧
  (∀ s : State, s.cfg.drainMode = .coop → exec .drain s = .next (s.respond .control .mode 0)) ∧
  (∀ (i : Instr) (s : State), s.pstate = .stopped →
    (i = .pop ∨ (∃ b, i = .step b) ∨ i = .resync ∨ (i = .drain ∧ s.cfg.drainMode = .nb)) →
      exec i s = .next (s.respond .control .stopped 0)) ∧
  (∀ (i : Instr) (s : State), s.pstate = .running ∨ s.pstate = .yielding → (i = .pop ∨ ∃ b, i = .step b) →
    exec i s = .next (s.respond .control .busy 0)) ∧
  (∀ s : State, s.pstate = .idle → s.level = 0 → exec .pop s = .next (s.respond .control .empty 0)) ∧
  (∀ (b : Byte) (s : State), s.level = s.cfg.cap → ∃ t, exec (.push b) s = .next t ∧
    t.responses = (s.respond .producer .full 0).responses) ∧
  (∀ (n : Byte) (s : State), 16 ≤ n.toNat → exec (.get n) s = .next (s.respond .control .notFound 0)) ∧
  (∀ (k : Byte) (s : State), 3 ≤ k.toNat → exec (.rdcnt k) s = .next (s.respond .control .notFound 0)) ∧
  (∀ (i : Instr) (s t : State) (r : Response), exec i s = .next t → t.responses = r :: s.responses →
    ((∃ b, i = .push b) ∨ (∃ n, i = .get n) ∨ (∃ k, i = .rdcnt k) ∨ i = .rdstat ∨ i = .teardown) →
      (rspStatus r.word).toNat < 5) ∧
  (∀ (b : Byte) (s : State), s.level ≠ s.cfg.cap → ∃ t, exec (.push b) s = .next t ∧
    t.responses = (s.respond .producer .ok 0).responses) ∧
  (∀ s : State, s.pstate = .idle → s.level ≠ 0 → ∃ t d, exec .pop s = .next t ∧
    t.responses = (s.respond .control .ok d).responses) ∧
  (∀ (b : Byte) (s : State), s.pstate = .idle → ∃ t d, exec (.step b) s = .next t ∧
    t.responses = (s.respond .control .ok d).responses) ∧
  (∀ (n : Byte) (s : State), n.toNat < 16 → ∃ d, exec (.get n) s = .next (s.respond .control .ok d)) ∧
  (∀ (k : Byte) (s : State), k.toNat < 3 → ∃ d, exec (.rdcnt k) s = .next (s.respond .control .ok d)) ∧
  (∀ s : State, ∃ d, exec .rdstat s = .next (s.respond .control .ok d)) ∧
  (∀ s : State, s.pstate ≠ .stopped → ∃ t, exec .resync s = .next t ∧
    t.responses = (s.respond .control .ok 0).responses) ∧
  (∀ s : State, ∃ t, exec .teardown s = .next t ∧ t.responses = (s.respond .control .ok 0).responses) ∧
  (∀ s : State, s.cfg.drainMode = .nb → s.pstate = .idle → ∃ t, exec .drain s = .next t ∧
    t.pstate = .draining ∧ t.responses = s.responses) ∧
  (∀ s : State, s.pstate = .draining → s.level = 0 → ∃ t, fire .pump s = .next t ∧
    t.responses = (s.respond .control .ok s.drainN).responses) ∧
  (∀ (pol : SyncPolicy) (stage : Stage) (acc : Word32) (b : Byte),
    (stage = .readLow → ¬ (pol = .resync ∧ b = 0xB5) →
      ((acc.extractLsb' 16 8).toNat ≤ 15 ∧ ∃ v, (decodeStep pol stage acc b).2.2 = .emit (acc.extractLsb' 16 8) v) ∨
      (16 ≤ (acc.extractLsb' 16 8).toNat ∧
        (decodeStep pol stage acc b).2.2 = .outOfRange (acc.extractLsb' 16 8))) ∧
    (stage ≠ .readLow ∨ (pol = .resync ∧ b = 0xB5) →
      (∀ i v, (decodeStep pol stage acc b).2.2 ≠ .emit i v) ∧ ∀ i, (decodeStep pol stage acc b).2.2 ≠ .outOfRange i))

/-- R108: a command that reports a status other than OK has changed nothing, except PUSH's OVF_CNT increment. -/
def Obligations.ARefusedCommandChangesNothing : Prop :=
  ∀ (i : Instr) (s t : State) (r : Response),
    exec i s = .next t → t.responses = r :: s.responses → rspStatus r.word ≠ 0x00 →
      t = { s with responses := r :: s.responses } ∨
      ((∃ b, i = .push b) ∧ t = { s with ovfCnt := s.ovfCnt + 1, responses := r :: s.responses })

/-! ### The assembler and the two instances -/

/-- R66: `FRAME idx, v` expands to four PUSH words and is refused outside its ranges; `BYTES` expands to one PUSH word a
byte, in order. R66 does not say whether BYTES may have no byte: that the empty list is taken, with no word (`bs = []` in
the last clause), is the model's choice, assumption 22. -/
def Obligations.PseudoInstructionsExpandToPushWords : Prop :=
  (∀ (idx : Nat) (v : Int), idx ≤ 255 → -1024 ≤ v → v ≤ 64511 →
    (AsmLine.frame idx v).assemble = some
      [(.producer, 0x10B5),
       (.producer, BitVec.ofNat 16 (0x1000 + idx)),
       (.producer, BitVec.ofNat 16 (0x1000 + (v + 1024).toNat / 256)),
       (.producer, BitVec.ofNat 16 (0x1000 + (v + 1024).toNat % 256))]) ∧
  (∀ (idx : Nat) (v : Int), 255 < idx ∨ v < -1024 ∨ 64511 < v → (AsmLine.frame idx v).assemble = none) ∧
  (∀ bs : List Nat, (∀ b ∈ bs, b ≤ 255) →
    (AsmLine.bytes bs).assemble = some (bs.map (fun b => (.producer, BitVec.ofNat 16 (0x1000 + b)))))

/-- R65: every word the assembler makes of a mnemonic of the language is a legal command on the port it is given for.
That an operand is written exactly where R56 gives the command one is assumption 8. -/
def Obligations.AssembledCommandsAreLegalOnTheirPort : Prop :=
  ∀ (m : Mnemonic) (operand : Option Nat) (ws : List (Port × Word16)), m ∈ mnemonics →
    (AsmLine.command m operand).assemble = some ws →
      ∃ (p : Port) (w : Word16) (i : Instr), ws = [(p, w)] ∧ decode p w = .instr i ∧
        w.toNat = m.opcode * 4096 + operand.getD 0

/-- R48, R89, R113: the two instances share no state. A step of one leaves the other as it is, whatever the other holds
does not change what the step does, and steps of the two commute. -/
def Obligations.InstancesDoNotInterfere : Prop :=
  (∀ (y z : System), y.step .usb = .next z → z.uart = y.uart ∧ Machine.step y.usb = .next z.usb) ∧
  (∀ (y z : System), y.step .uart = .next z → z.usb = y.usb ∧ Machine.step y.uart = .next z.uart) ∧
  (∀ (y z z' : System), y.step .usb = .next z → z.step .uart = .next z' →
    ∃ u, y.step .uart = .next u ∧ u.step .usb = .next z')

/-- R10: `wrap16(n)` is the i16 congruent to `n` modulo 2^16. -/
def Obligations.WrapIsTheCongruentSixteenBitValue : Prop :=
  ∀ n : Int, (wrap16 n).toInt = (n % 65536 + 32768) % 65536 - 32768 ∧
    -32768 ≤ (wrap16 n).toInt ∧ (wrap16 n).toInt ≤ 32767 ∧ ((wrap16 n).toInt - n) % 65536 = 0
end

