-- ==== Sys2Proof/Laws/PerInstr.lean ====
section
/-! SUPPORT. The family ReservedClear: every encoding has `RSV` = 0 (spec/30_encoding.md R54), a constructor at a time. -/

namespace Sys2Proof.Laws.ReservedClear

/-- The encoding of `i` has its reserved field 0. -/
def Statement (i : Instr) : Prop := rsvField (encode i) = 0

/-- The middle field of a word made of three fields. -/
theorem rsvField_of_fields (op : BitVec 4) (arg : Byte) : rsvField (op ++ (0 : BitVec 4) ++ arg) = 0 := by
  unfold rsvField
  ext j hj
  simp only [BitVec.getElem_extractLsb', BitVec.getLsbD_append]
  interval_cases j <;> simp

theorem push (b : Byte) : Statement (.push b) := rsvField_of_fields _ _
theorem pop : Statement .pop := rsvField_of_fields _ _
theorem step (b : Byte) : Statement (.step b) := rsvField_of_fields _ _
theorem get (i : Byte) : Statement (.get i) := rsvField_of_fields _ _
theorem drain : Statement .drain := rsvField_of_fields _ _
theorem resync : Statement .resync := rsvField_of_fields _ _
theorem teardown : Statement .teardown := rsvField_of_fields _ _
theorem rdcnt (k : Byte) : Statement (.rdcnt k) := rsvField_of_fields _ _
theorem rdstat : Statement .rdstat := rsvField_of_fields _ _

end Sys2Proof.Laws.ReservedClear
end

