-- ==== Sys2Proof/Laws/Decode.lean ====
section
/-! SUPPORT. The fields of a command word: a word is its three fields, and an encoding has the fields it is made of
(spec/30_encoding.md R54). -/

namespace Sys2Proof

/-- A command word is its three fields. -/
theorem word_eq_fields (w : Word16) : w = opField w ++ rsvField w ++ argField w := by
  apply BitVec.eq_of_getLsbD_eq
  intro i hi
  simp only [BitVec.getLsbD_append, opField, rsvField, argField]
  interval_cases i <;> simp

@[simp] theorem opField_encode (i : Instr) : opField (encode i) = i.opcode := by
  apply BitVec.eq_of_getLsbD_eq
  intro j hj
  simp only [encode, opField, BitVec.getLsbD_extractLsb', BitVec.getLsbD_append]
  interval_cases j <;> simp

@[simp] theorem rsvField_encode (i : Instr) : rsvField (encode i) = 0 :=
  Laws.ReservedClear.rsvField_of_fields _ _

@[simp] theorem argField_encode (i : Instr) : argField (encode i) = i.arg := by
  apply BitVec.eq_of_getLsbD_eq
  intro j hj
  simp only [encode, argField, BitVec.getLsbD_extractLsb', BitVec.getLsbD_append]
  interval_cases j <;> simp

/-- The sixteen values of `OP`. -/
theorem opcode_values (op : BitVec 4) :
    op = 0 ∨ op = 1 ∨ op = 2 ∨ op = 3 ∨ op = 4 ∨ op = 5 ∨ op = 6 ∨ op = 7 ∨ op = 8 ∨ op = 9 ∨
    op = 10 ∨ op = 11 ∨ op = 12 ∨ op = 13 ∨ op = 14 ∨ op = 15 := by
  revert op
  decide

end Sys2Proof
end

