-- ==== Sys2Proof/Laws/State.lean ====
section
/-! SUPPORT. What each named update of State does to each field: one lemma per field per update. -/

namespace Sys2Proof.Machine.State

variable (s : State)

@[simp] theorem respond_cfg (p : Port) (st : Status) (d : Word32) : (s.respond p st d).cfg = s.cfg := rfl
@[simp] theorem respond_mem (p : Port) (st : Status) (d : Word32) : (s.respond p st d).mem = s.mem := rfl
@[simp] theorem respond_wp (p : Port) (st : Status) (d : Word32) : (s.respond p st d).wp = s.wp := rfl
@[simp] theorem respond_rp (p : Port) (st : Status) (d : Word32) : (s.respond p st d).rp = s.rp := rfl
@[simp] theorem respond_stage (p : Port) (st : Status) (d : Word32) : (s.respond p st d).stage = s.stage := rfl
@[simp] theorem respond_acc (p : Port) (st : Status) (d : Word32) : (s.respond p st d).acc = s.acc := rfl
@[simp] theorem respond_ch (p : Port) (st : Status) (d : Word32) : (s.respond p st d).ch = s.ch := rfl
@[simp] theorem respond_ovfCnt (p : Port) (st : Status) (d : Word32) : (s.respond p st d).ovfCnt = s.ovfCnt := rfl
@[simp] theorem respond_oorCnt (p : Port) (st : Status) (d : Word32) : (s.respond p st d).oorCnt = s.oorCnt := rfl
@[simp] theorem respond_desyncCnt (p : Port) (st : Status) (d : Word32) : (s.respond p st d).desyncCnt = s.desyncCnt := rfl
@[simp] theorem respond_pstate (p : Port) (st : Status) (d : Word32) : (s.respond p st d).pstate = s.pstate := rfl
@[simp] theorem respond_drainN (p : Port) (st : Status) (d : Word32) : (s.respond p st d).drainN = s.drainN := rfl
@[simp] theorem respond_cpPending (p : Port) (st : Status) (d : Word32) : (s.respond p st d).cpPending = s.cpPending := rfl
@[simp] theorem respond_resets (p : Port) (st : Status) (d : Word32) : (s.respond p st d).resets = s.resets := rfl
@[simp] theorem respond_producerIn (p : Port) (st : Status) (d : Word32) : (s.respond p st d).producerIn = s.producerIn := rfl
@[simp] theorem respond_hostIn (p : Port) (st : Status) (d : Word32) : (s.respond p st d).hostIn = s.hostIn := rfl
@[simp] theorem respond_turns (p : Port) (st : Status) (d : Word32) : (s.respond p st d).turns = s.turns := rfl
@[simp] theorem respond_responses (p : Port) (st : Status) (d : Word32) : (s.respond p st d).responses = ⟨p, rspWord st d⟩ :: s.responses := rfl

@[simp] theorem memWrite_cfg (a : Nat) (b : Byte) : (s.memWrite a b).cfg = s.cfg := rfl
@[simp] theorem memWrite_mem (a : Nat) (b : Byte) : (s.memWrite a b).mem = Memory.write s.mem a b := rfl
@[simp] theorem memWrite_wp (a : Nat) (b : Byte) : (s.memWrite a b).wp = s.wp := rfl
@[simp] theorem memWrite_rp (a : Nat) (b : Byte) : (s.memWrite a b).rp = s.rp := rfl
@[simp] theorem memWrite_stage (a : Nat) (b : Byte) : (s.memWrite a b).stage = s.stage := rfl
@[simp] theorem memWrite_acc (a : Nat) (b : Byte) : (s.memWrite a b).acc = s.acc := rfl
@[simp] theorem memWrite_ch (a : Nat) (b : Byte) : (s.memWrite a b).ch = s.ch := rfl
@[simp] theorem memWrite_ovfCnt (a : Nat) (b : Byte) : (s.memWrite a b).ovfCnt = s.ovfCnt := rfl
@[simp] theorem memWrite_oorCnt (a : Nat) (b : Byte) : (s.memWrite a b).oorCnt = s.oorCnt := rfl
@[simp] theorem memWrite_desyncCnt (a : Nat) (b : Byte) : (s.memWrite a b).desyncCnt = s.desyncCnt := rfl
@[simp] theorem memWrite_pstate (a : Nat) (b : Byte) : (s.memWrite a b).pstate = s.pstate := rfl
@[simp] theorem memWrite_drainN (a : Nat) (b : Byte) : (s.memWrite a b).drainN = s.drainN := rfl
@[simp] theorem memWrite_cpPending (a : Nat) (b : Byte) : (s.memWrite a b).cpPending = s.cpPending := rfl
@[simp] theorem memWrite_resets (a : Nat) (b : Byte) : (s.memWrite a b).resets = s.resets := rfl
@[simp] theorem memWrite_producerIn (a : Nat) (b : Byte) : (s.memWrite a b).producerIn = s.producerIn := rfl
@[simp] theorem memWrite_hostIn (a : Nat) (b : Byte) : (s.memWrite a b).hostIn = s.hostIn := rfl
@[simp] theorem memWrite_turns (a : Nat) (b : Byte) : (s.memWrite a b).turns = s.turns := rfl
@[simp] theorem memWrite_responses (a : Nat) (b : Byte) : (s.memWrite a b).responses = s.responses := rfl

@[simp] theorem countOverflow_cfg : (s.countOverflow).cfg = s.cfg := rfl
@[simp] theorem countOverflow_mem : (s.countOverflow).mem = s.mem := rfl
@[simp] theorem countOverflow_wp : (s.countOverflow).wp = s.wp := rfl
@[simp] theorem countOverflow_rp : (s.countOverflow).rp = s.rp := rfl
@[simp] theorem countOverflow_stage : (s.countOverflow).stage = s.stage := rfl
@[simp] theorem countOverflow_acc : (s.countOverflow).acc = s.acc := rfl
@[simp] theorem countOverflow_ch : (s.countOverflow).ch = s.ch := rfl
@[simp] theorem countOverflow_ovfCnt : (s.countOverflow).ovfCnt = s.ovfCnt + 1 := rfl
@[simp] theorem countOverflow_oorCnt : (s.countOverflow).oorCnt = s.oorCnt := rfl
@[simp] theorem countOverflow_desyncCnt : (s.countOverflow).desyncCnt = s.desyncCnt := rfl
@[simp] theorem countOverflow_pstate : (s.countOverflow).pstate = s.pstate := rfl
@[simp] theorem countOverflow_drainN : (s.countOverflow).drainN = s.drainN := rfl
@[simp] theorem countOverflow_cpPending : (s.countOverflow).cpPending = s.cpPending := rfl
@[simp] theorem countOverflow_resets : (s.countOverflow).resets = s.resets := rfl
@[simp] theorem countOverflow_producerIn : (s.countOverflow).producerIn = s.producerIn := rfl
@[simp] theorem countOverflow_hostIn : (s.countOverflow).hostIn = s.hostIn := rfl
@[simp] theorem countOverflow_turns : (s.countOverflow).turns = s.turns := rfl
@[simp] theorem countOverflow_responses : (s.countOverflow).responses = s.responses := rfl

@[simp] theorem countOutOfRange_cfg : (s.countOutOfRange).cfg = s.cfg := rfl
@[simp] theorem countOutOfRange_mem : (s.countOutOfRange).mem = s.mem := rfl
@[simp] theorem countOutOfRange_wp : (s.countOutOfRange).wp = s.wp := rfl
@[simp] theorem countOutOfRange_rp : (s.countOutOfRange).rp = s.rp := rfl
@[simp] theorem countOutOfRange_stage : (s.countOutOfRange).stage = s.stage := rfl
@[simp] theorem countOutOfRange_acc : (s.countOutOfRange).acc = s.acc := rfl
@[simp] theorem countOutOfRange_ch : (s.countOutOfRange).ch = s.ch := rfl
@[simp] theorem countOutOfRange_ovfCnt : (s.countOutOfRange).ovfCnt = s.ovfCnt := rfl
@[simp] theorem countOutOfRange_oorCnt : (s.countOutOfRange).oorCnt = s.oorCnt + 1 := rfl
@[simp] theorem countOutOfRange_desyncCnt : (s.countOutOfRange).desyncCnt = s.desyncCnt := rfl
@[simp] theorem countOutOfRange_pstate : (s.countOutOfRange).pstate = s.pstate := rfl
@[simp] theorem countOutOfRange_drainN : (s.countOutOfRange).drainN = s.drainN := rfl
@[simp] theorem countOutOfRange_cpPending : (s.countOutOfRange).cpPending = s.cpPending := rfl
@[simp] theorem countOutOfRange_resets : (s.countOutOfRange).resets = s.resets := rfl
@[simp] theorem countOutOfRange_producerIn : (s.countOutOfRange).producerIn = s.producerIn := rfl
@[simp] theorem countOutOfRange_hostIn : (s.countOutOfRange).hostIn = s.hostIn := rfl
@[simp] theorem countOutOfRange_turns : (s.countOutOfRange).turns = s.turns := rfl
@[simp] theorem countOutOfRange_responses : (s.countOutOfRange).responses = s.responses := rfl

@[simp] theorem countDesync_cfg : (s.countDesync).cfg = s.cfg := rfl
@[simp] theorem countDesync_mem : (s.countDesync).mem = s.mem := rfl
@[simp] theorem countDesync_wp : (s.countDesync).wp = s.wp := rfl
@[simp] theorem countDesync_rp : (s.countDesync).rp = s.rp := rfl
@[simp] theorem countDesync_stage : (s.countDesync).stage = s.stage := rfl
@[simp] theorem countDesync_acc : (s.countDesync).acc = s.acc := rfl
@[simp] theorem countDesync_ch : (s.countDesync).ch = s.ch := rfl
@[simp] theorem countDesync_ovfCnt : (s.countDesync).ovfCnt = s.ovfCnt := rfl
@[simp] theorem countDesync_oorCnt : (s.countDesync).oorCnt = s.oorCnt := rfl
@[simp] theorem countDesync_desyncCnt : (s.countDesync).desyncCnt = s.desyncCnt + 1 := rfl
@[simp] theorem countDesync_pstate : (s.countDesync).pstate = s.pstate := rfl
@[simp] theorem countDesync_drainN : (s.countDesync).drainN = s.drainN := rfl
@[simp] theorem countDesync_cpPending : (s.countDesync).cpPending = s.cpPending := rfl
@[simp] theorem countDesync_resets : (s.countDesync).resets = s.resets := rfl
@[simp] theorem countDesync_producerIn : (s.countDesync).producerIn = s.producerIn := rfl
@[simp] theorem countDesync_hostIn : (s.countDesync).hostIn = s.hostIn := rfl
@[simp] theorem countDesync_turns : (s.countDesync).turns = s.turns := rfl
@[simp] theorem countDesync_responses : (s.countDesync).responses = s.responses := rfl

@[simp] theorem storeByte_cfg (b : Byte) : (s.storeByte b).cfg = s.cfg := rfl
@[simp] theorem storeByte_mem (b : Byte) : (s.storeByte b).mem = Memory.write s.mem s.pushSlot b := rfl
@[simp] theorem storeByte_wp (b : Byte) : (s.storeByte b).wp = s.nextPtr s.wp := rfl
@[simp] theorem storeByte_rp (b : Byte) : (s.storeByte b).rp = s.rp := rfl
@[simp] theorem storeByte_stage (b : Byte) : (s.storeByte b).stage = s.stage := rfl
@[simp] theorem storeByte_acc (b : Byte) : (s.storeByte b).acc = s.acc := rfl
@[simp] theorem storeByte_ch (b : Byte) : (s.storeByte b).ch = s.ch := rfl
@[simp] theorem storeByte_ovfCnt (b : Byte) : (s.storeByte b).ovfCnt = s.ovfCnt := rfl
@[simp] theorem storeByte_oorCnt (b : Byte) : (s.storeByte b).oorCnt = s.oorCnt := rfl
@[simp] theorem storeByte_desyncCnt (b : Byte) : (s.storeByte b).desyncCnt = s.desyncCnt := rfl
@[simp] theorem storeByte_pstate (b : Byte) : (s.storeByte b).pstate = s.pstate := rfl
@[simp] theorem storeByte_drainN (b : Byte) : (s.storeByte b).drainN = s.drainN := rfl
@[simp] theorem storeByte_cpPending (b : Byte) : (s.storeByte b).cpPending = s.cpPending := rfl
@[simp] theorem storeByte_resets (b : Byte) : (s.storeByte b).resets = s.resets := rfl
@[simp] theorem storeByte_producerIn (b : Byte) : (s.storeByte b).producerIn = s.producerIn := rfl
@[simp] theorem storeByte_hostIn (b : Byte) : (s.storeByte b).hostIn = s.hostIn := rfl
@[simp] theorem storeByte_turns (b : Byte) : (s.storeByte b).turns = s.turns := rfl
@[simp] theorem storeByte_responses (b : Byte) : (s.storeByte b).responses = s.responses := rfl

@[simp] theorem dropOldest_cfg : (s.dropOldest).cfg = s.cfg := rfl
@[simp] theorem dropOldest_mem : (s.dropOldest).mem = s.mem := rfl
@[simp] theorem dropOldest_wp : (s.dropOldest).wp = s.wp := rfl
@[simp] theorem dropOldest_rp : (s.dropOldest).rp = s.nextPtr s.rp := rfl
@[simp] theorem dropOldest_stage : (s.dropOldest).stage = s.stage := rfl
@[simp] theorem dropOldest_acc : (s.dropOldest).acc = s.acc := rfl
@[simp] theorem dropOldest_ch : (s.dropOldest).ch = s.ch := rfl
@[simp] theorem dropOldest_ovfCnt : (s.dropOldest).ovfCnt = s.ovfCnt := rfl
@[simp] theorem dropOldest_oorCnt : (s.dropOldest).oorCnt = s.oorCnt := rfl
@[simp] theorem dropOldest_desyncCnt : (s.dropOldest).desyncCnt = s.desyncCnt := rfl
@[simp] theorem dropOldest_pstate : (s.dropOldest).pstate = s.pstate := rfl
@[simp] theorem dropOldest_drainN : (s.dropOldest).drainN = s.drainN := rfl
@[simp] theorem dropOldest_cpPending : (s.dropOldest).cpPending = s.cpPending := rfl
@[simp] theorem dropOldest_resets : (s.dropOldest).resets = s.resets := rfl
@[simp] theorem dropOldest_producerIn : (s.dropOldest).producerIn = s.producerIn := rfl
@[simp] theorem dropOldest_hostIn : (s.dropOldest).hostIn = s.hostIn := rfl
@[simp] theorem dropOldest_turns : (s.dropOldest).turns = s.turns := rfl
@[simp] theorem dropOldest_responses : (s.dropOldest).responses = s.responses := rfl

@[simp] theorem setChannel_cfg (i : Byte) (v : Word16) : (s.setChannel i v).cfg = s.cfg := rfl
@[simp] theorem setChannel_mem (i : Byte) (v : Word16) : (s.setChannel i v).mem = s.mem := rfl
@[simp] theorem setChannel_wp (i : Byte) (v : Word16) : (s.setChannel i v).wp = s.wp := rfl
@[simp] theorem setChannel_rp (i : Byte) (v : Word16) : (s.setChannel i v).rp = s.rp := rfl
@[simp] theorem setChannel_stage (i : Byte) (v : Word16) : (s.setChannel i v).stage = s.stage := rfl
@[simp] theorem setChannel_acc (i : Byte) (v : Word16) : (s.setChannel i v).acc = s.acc := rfl
@[simp] theorem setChannel_ch (i : Byte) (v : Word16) : (s.setChannel i v).ch = s.ch.setIfInBounds i.toNat v := rfl
@[simp] theorem setChannel_ovfCnt (i : Byte) (v : Word16) : (s.setChannel i v).ovfCnt = s.ovfCnt := rfl
@[simp] theorem setChannel_oorCnt (i : Byte) (v : Word16) : (s.setChannel i v).oorCnt = s.oorCnt := rfl
@[simp] theorem setChannel_desyncCnt (i : Byte) (v : Word16) : (s.setChannel i v).desyncCnt = s.desyncCnt := rfl
@[simp] theorem setChannel_pstate (i : Byte) (v : Word16) : (s.setChannel i v).pstate = s.pstate := rfl
@[simp] theorem setChannel_drainN (i : Byte) (v : Word16) : (s.setChannel i v).drainN = s.drainN := rfl
@[simp] theorem setChannel_cpPending (i : Byte) (v : Word16) : (s.setChannel i v).cpPending = s.cpPending := rfl
@[simp] theorem setChannel_resets (i : Byte) (v : Word16) : (s.setChannel i v).resets = s.resets := rfl
@[simp] theorem setChannel_producerIn (i : Byte) (v : Word16) : (s.setChannel i v).producerIn = s.producerIn := rfl
@[simp] theorem setChannel_hostIn (i : Byte) (v : Word16) : (s.setChannel i v).hostIn = s.hostIn := rfl
@[simp] theorem setChannel_turns (i : Byte) (v : Word16) : (s.setChannel i v).turns = s.turns := rfl
@[simp] theorem setChannel_responses (i : Byte) (v : Word16) : (s.setChannel i v).responses = s.responses := rfl

@[simp] theorem setDecoder_cfg (g : Stage) (a : Word32) : (s.setDecoder g a).cfg = s.cfg := rfl
@[simp] theorem setDecoder_mem (g : Stage) (a : Word32) : (s.setDecoder g a).mem = s.mem := rfl
@[simp] theorem setDecoder_wp (g : Stage) (a : Word32) : (s.setDecoder g a).wp = s.wp := rfl
@[simp] theorem setDecoder_rp (g : Stage) (a : Word32) : (s.setDecoder g a).rp = s.rp := rfl
@[simp] theorem setDecoder_stage (g : Stage) (a : Word32) : (s.setDecoder g a).stage = g := rfl
@[simp] theorem setDecoder_acc (g : Stage) (a : Word32) : (s.setDecoder g a).acc = a := rfl
@[simp] theorem setDecoder_ch (g : Stage) (a : Word32) : (s.setDecoder g a).ch = s.ch := rfl
@[simp] theorem setDecoder_ovfCnt (g : Stage) (a : Word32) : (s.setDecoder g a).ovfCnt = s.ovfCnt := rfl
@[simp] theorem setDecoder_oorCnt (g : Stage) (a : Word32) : (s.setDecoder g a).oorCnt = s.oorCnt := rfl
@[simp] theorem setDecoder_desyncCnt (g : Stage) (a : Word32) : (s.setDecoder g a).desyncCnt = s.desyncCnt := rfl
@[simp] theorem setDecoder_pstate (g : Stage) (a : Word32) : (s.setDecoder g a).pstate = s.pstate := rfl
@[simp] theorem setDecoder_drainN (g : Stage) (a : Word32) : (s.setDecoder g a).drainN = s.drainN := rfl
@[simp] theorem setDecoder_cpPending (g : Stage) (a : Word32) : (s.setDecoder g a).cpPending = s.cpPending := rfl
@[simp] theorem setDecoder_resets (g : Stage) (a : Word32) : (s.setDecoder g a).resets = s.resets := rfl
@[simp] theorem setDecoder_producerIn (g : Stage) (a : Word32) : (s.setDecoder g a).producerIn = s.producerIn := rfl
@[simp] theorem setDecoder_hostIn (g : Stage) (a : Word32) : (s.setDecoder g a).hostIn = s.hostIn := rfl
@[simp] theorem setDecoder_turns (g : Stage) (a : Word32) : (s.setDecoder g a).turns = s.turns := rfl
@[simp] theorem setDecoder_responses (g : Stage) (a : Word32) : (s.setDecoder g a).responses = s.responses := rfl

@[simp] theorem setPump_cfg (p : PState) : (s.setPump p).cfg = s.cfg := rfl
@[simp] theorem setPump_mem (p : PState) : (s.setPump p).mem = s.mem := rfl
@[simp] theorem setPump_wp (p : PState) : (s.setPump p).wp = s.wp := rfl
@[simp] theorem setPump_rp (p : PState) : (s.setPump p).rp = s.rp := rfl
@[simp] theorem setPump_stage (p : PState) : (s.setPump p).stage = s.stage := rfl
@[simp] theorem setPump_acc (p : PState) : (s.setPump p).acc = s.acc := rfl
@[simp] theorem setPump_ch (p : PState) : (s.setPump p).ch = s.ch := rfl
@[simp] theorem setPump_ovfCnt (p : PState) : (s.setPump p).ovfCnt = s.ovfCnt := rfl
@[simp] theorem setPump_oorCnt (p : PState) : (s.setPump p).oorCnt = s.oorCnt := rfl
@[simp] theorem setPump_desyncCnt (p : PState) : (s.setPump p).desyncCnt = s.desyncCnt := rfl
@[simp] theorem setPump_pstate (p : PState) : (s.setPump p).pstate = p := rfl
@[simp] theorem setPump_drainN (p : PState) : (s.setPump p).drainN = s.drainN := rfl
@[simp] theorem setPump_cpPending (p : PState) : (s.setPump p).cpPending = s.cpPending := rfl
@[simp] theorem setPump_resets (p : PState) : (s.setPump p).resets = s.resets := rfl
@[simp] theorem setPump_producerIn (p : PState) : (s.setPump p).producerIn = s.producerIn := rfl
@[simp] theorem setPump_hostIn (p : PState) : (s.setPump p).hostIn = s.hostIn := rfl
@[simp] theorem setPump_turns (p : PState) : (s.setPump p).turns = s.turns := rfl
@[simp] theorem setPump_responses (p : PState) : (s.setPump p).responses = s.responses := rfl

end Sys2Proof.Machine.State
end

