-- ==== Sys2Proof/Laws/Ops.lean ====
section
/-! SUPPORT. What the shared operations do, said once: ring storage and its canonical form, the pointers and LEVEL, the
pop primitive. -/

namespace Sys2Proof.Machine

/-! ### Ring storage -/

theorem Memory.read_write_same (m : List Host.Cell) (a : Nat) (b : Byte) :
    Memory.read (Memory.write m a b) a = some b := by
  induction m with
  | nil => simp [Memory.write, Memory.read]
  | cons c m ih =>
    obtain ⟨k, v⟩ := c
    unfold Memory.write
    split
    · simp [Memory.read]
    · split
      · simp [Memory.read]
      · rename_i hne
        simp [Memory.read, Ne.symm hne, ih]

theorem Memory.read_write_other (m : List Host.Cell) (a c : Nat) (b : Byte) (h : c ≠ a) :
    Memory.read (Memory.write m a b) c = Memory.read m c := by
  induction m with
  | nil => simp [Memory.write, Memory.read, Ne.symm h]
  | cons x m ih =>
    obtain ⟨k, v⟩ := x
    unfold Memory.write
    split
    · simp [Memory.read, Ne.symm h]
    · split
      · rename_i he
        subst he
        simp [Memory.read, Ne.symm h]
      · simp [Memory.read, ih]

theorem Memory.risingFrom_write (m : List Host.Cell) (lo a : Nat) (b : Byte) (ha : lo < a)
    (hm : Memory.risingFrom lo m = true) : Memory.risingFrom lo (Memory.write m a b) = true := by
  induction m generalizing lo with
  | nil => simpa [Memory.write, Memory.risingFrom] using ha
  | cons x m ih =>
    obtain ⟨k, v⟩ := x
    simp only [Memory.risingFrom, Bool.and_eq_true, decide_eq_true_eq] at hm
    unfold Memory.write
    split
    · rename_i hak
      simp [Memory.risingFrom, ha, hak, hm.2]
    · split
      · rename_i he
        simp [Memory.risingFrom, he, hm.1, hm.2]
      · have hk : k < a := by omega
        simp [Memory.risingFrom, hm.1, ih k hk hm.2]

/-- A write keeps the canonical form of ring storage. -/
theorem Memory.wf_write (m : List Host.Cell) (a : Nat) (b : Byte) (hm : Memory.wf m = true) :
    Memory.wf (Memory.write m a b) = true := by
  cases m with
  | nil => rfl
  | cons x m =>
    obtain ⟨k, v⟩ := x
    simp only [Memory.wf] at hm
    unfold Memory.write
    split
    · rename_i hak
      simp [Memory.wf, Memory.risingFrom, hak, hm]
    · split
      · rename_i he
        simpa [Memory.wf, he] using hm
      · have hk : k < a := by omega
        simpa [Memory.wf] using Memory.risingFrom_write m k a b hk hm

/-- The machine's own reset state has ring storage in canonical form. -/
theorem State.reset_memory_wf : Memory.wf State.reset.mem = true := rfl

/-- Every update that touches ring storage keeps its canonical form: a store, and reset (which lists nothing). -/
theorem State.storeByte_memory_wf (s : State) (b : Byte) (h : Memory.wf s.mem = true) :
    Memory.wf (s.storeByte b).mem = true := Memory.wf_write _ _ _ h

theorem State.resetElements_memory_wf (s : State) : Memory.wf s.resetElements.mem = true := rfl

theorem Memory.read_none_of_risingFrom (m : List Host.Cell) (lo a : Nat) (h : a ≤ lo)
    (hm : Memory.risingFrom lo m = true) : Memory.read m a = none := by
  induction m generalizing lo with
  | nil => rfl
  | cons x m ih =>
    obtain ⟨k, v⟩ := x
    simp only [Memory.risingFrom, Bool.and_eq_true, decide_eq_true_eq] at hm
    have hne : k ≠ a := by omega
    simpa [Memory.read, hne] using ih k (by omega) hm.2

/-- The form is canonical: two well-formed memories that read alike are the same list. -/
theorem Memory.eq_of_reads_eq (m n : List Host.Cell) (hm : Memory.wf m = true) (hn : Memory.wf n = true)
    (h : ∀ a, Memory.read m a = Memory.read n a) : m = n := by
  induction m generalizing n with
  | nil =>
    cases n with
    | nil => rfl
    | cons y n => simpa [Memory.read] using h y.1
  | cons x m ih =>
    obtain ⟨k, v⟩ := x
    cases n with
    | nil => simpa [Memory.read] using h k
    | cons y n =>
      obtain ⟨j, w⟩ := y
      simp only [Memory.wf] at hm hn
      have hk : k = j := by
        rcases Nat.lt_trichotomy k j with hlt | heq | hgt
        · have hr := h k
          rw [Memory.read, if_pos rfl, Memory.read, if_neg (by omega),
            Memory.read_none_of_risingFrom n j k (by omega) hn] at hr
          cases hr
        · exact heq
        · have hr := h j
          rw [Memory.read, if_neg (by omega), Memory.read_none_of_risingFrom m k j (by omega) hm,
            Memory.read, if_pos rfl] at hr
          cases hr
      subst hk
      have hv : v = w := by simpa [Memory.read] using h k
      subst hv
      have tail_wf : ∀ l : List Host.Cell, Memory.risingFrom k l = true → Memory.wf l = true := by
        intro l hl
        cases l with
        | nil => rfl
        | cons z l => simp only [Memory.risingFrom, Bool.and_eq_true] at hl; exact hl.2
      have htail : m = n := by
        refine ih n (tail_wf m hm) (tail_wf n hn) fun a => ?_
        by_cases ha : k = a
        · rw [Memory.read_none_of_risingFrom m k a (by omega) hm,
            Memory.read_none_of_risingFrom n k a (by omega) hn]
        · simpa [Memory.read, ha] using h a
      rw [htail]

theorem Memory.mem_write (m : List Host.Cell) (a : Nat) (b : Byte) (c : Host.Cell)
    (h : c ∈ Memory.write m a b) : c = (a, b) ∨ c ∈ m := by
  induction m with
  | nil => simpa [Memory.write] using h
  | cons x m ih =>
    obtain ⟨k, v⟩ := x
    unfold Memory.write at h
    split at h
    · simpa using h
    · split at h
      · rcases List.mem_cons.mp h with h | h
        · exact .inl h
        · exact .inr (List.mem_cons_of_mem _ h)
      · rcases List.mem_cons.mp h with h | h
        · exact .inr (h ▸ List.mem_cons_self)
        · rcases ih h with h | h
          · exact .inl h
          · exact .inr (List.mem_cons_of_mem _ h)

/-! ### The pointers and LEVEL -/

/-- An admitted configuration's bounds on CAP (R7). -/
theorem Config.wf_bounds {c : Config} (h : c.wf = true) : 1 ≤ c.cap ∧ c.cap ≤ 65535 := by
  simpa [Config.wf] using h

/-- LEVEL with both pointers in range: the distance from RP to WP, once around where WP lies below. -/
theorem State.level_cases (s : State) (hw : s.wp < 2 * s.cfg.cap) (hr : s.rp < 2 * s.cfg.cap) :
    (s.rp ≤ s.wp ∧ s.level + s.rp = s.wp) ∨ (s.wp < s.rp ∧ s.level + s.rp = s.wp + 2 * s.cfg.cap) := by
  unfold State.level
  by_cases h : s.rp ≤ s.wp
  · rw [Int.emod_eq_of_lt (by omega) (by omega)]
    omega
  · rw [← Int.add_emod_right, Int.emod_eq_of_lt (by omega) (by omega)]
    omega

/-- The pointer after `p`, for `p` in range: one more, or 0 at the end (R67, R69). -/
theorem State.nextPtr_cases (s : State) (p : Nat) (h : p < 2 * s.cfg.cap) :
    (p + 1 = 2 * s.cfg.cap ∧ s.nextPtr p = 0) ∨ (p + 1 < 2 * s.cfg.cap ∧ s.nextPtr p = p + 1) := by
  unfold State.nextPtr
  by_cases he : p + 1 = 2 * s.cfg.cap
  · exact .inl ⟨he, by rw [he, Nat.mod_self]⟩
  · exact .inr ⟨by omega, Nat.mod_eq_of_lt (by omega)⟩

theorem State.nextPtr_lt (s : State) (p : Nat) (h : 1 ≤ s.cfg.cap) : s.nextPtr p < 2 * s.cfg.cap :=
  Nat.mod_lt _ (by omega)

/-- LEVEL reads only the parameters and the pointers. -/
theorem State.level_congr (s t : State) (hc : t.cfg = s.cfg) (hw : t.wp = s.wp) (hr : t.rp = s.rp) :
    t.level = s.level := by
  simp only [State.level, hc, hw, hr]

/-- A store where there is room raises LEVEL by one. -/
theorem State.level_storeByte (s : State) (b : Byte) (h : s.RingOk) (hl : s.level ≠ s.cfg.cap) :
    (s.storeByte b).level = s.level + 1 := by
  have hlt := State.nextPtr_lt s s.wp (Config.wf_bounds h.cfgWf).1
  have hn := State.nextPtr_cases s s.wp h.wpRange
  have hs := State.level_cases s h.wpRange h.rpRange
  have ht := State.level_cases (s.storeByte b) (by simpa using hlt) (by simpa using h.rpRange)
  simp only [State.storeByte_wp, State.storeByte_rp, State.storeByte_cfg] at ht
  have hle := h.levelLe
  have hw := h.wpRange
  have hr := h.rpRange
  omega

/-- A pop of a buffer that holds a byte lowers LEVEL by one. -/
theorem State.level_dropOldest (s : State) (h : s.RingOk) (hl : s.level ≠ 0) :
    s.dropOldest.level + 1 = s.level := by
  have hlt := State.nextPtr_lt s s.rp (Config.wf_bounds h.cfgWf).1
  have hn := State.nextPtr_cases s s.rp h.rpRange
  have hs := State.level_cases s h.wpRange h.rpRange
  have ht := State.level_cases s.dropOldest (by simpa using h.wpRange) (by simpa using hlt)
  simp only [State.dropOldest_wp, State.dropOldest_rp, State.dropOldest_cfg] at ht
  have hle := h.levelLe
  have hw := h.wpRange
  have hr := h.rpRange
  omega

/-- Everything the pop primitive can do (R69): nothing where the buffer is empty, else the oldest byte and a step of RP. -/
theorem State.popInternal_cases (s : State) :
    (s.level = 0 ∧ s.popInternal = none) ∨
    (s.level ≠ 0 ∧ s.popInternal = some (s.memRead s.popSlot, s.dropOldest)) := by
  unfold State.popInternal
  by_cases h : s.level = 0 <;> simp [h]

/-- Everything a PUSH can do (R67). -/
theorem State.pushByte_cases (s : State) (b : Byte) :
    (s.level = s.cfg.cap ∧ s.pushByte b = s.countOverflow.respond .producer .full 0) ∨
    (s.level ≠ s.cfg.cap ∧ s.pushByte b = (s.storeByte b).respond .producer .ok 0) := by
  unfold State.pushByte
  by_cases h : s.level = s.cfg.cap <;> simp [h]

end Sys2Proof.Machine
end

