-- ==== Sys2Proof/Laws/Decoder.lean ====
section
/-! SUPPORT. What the decoder step, its events and a fed byte can do, said once (spec/42_frame_decoder.md R72, R79). -/

namespace Sys2Proof.Machine

/-! ### The decoder step, a stage at a time -/

@[simp] theorem decodeStep_awaitSync (pol : SyncPolicy) (acc : Word32) (b : Byte) :
    decodeStep pol .awaitSync acc b =
      if b = syncByte then (.readChan, 0, .none) else (.awaitSync, 0, .discard) := rfl

/-- Under RESYNC a SYNC byte inside a frame restarts it (R78). -/
theorem decodeStep_restart (stage : Stage) (acc : Word32) (h : stage ≠ .awaitSync) :
    decodeStep .resync stage acc syncByte = (.readChan, 0, .restart) := by
  simp [decodeStep, h]

theorem decodeStep_readChan (pol : SyncPolicy) (acc : Word32) (b : Byte) (h : ¬ (pol = .resync ∧ b = syncByte)) :
    decodeStep pol .readChan acc b = (.readHigh, accWithIndex acc b, .none) := by
  simp [decodeStep, h]

theorem decodeStep_readHigh (pol : SyncPolicy) (acc : Word32) (b : Byte) (h : ¬ (pol = .resync ∧ b = syncByte)) :
    decodeStep pol .readHigh acc b = (.readLow, accWithHigh acc b, .none) := by
  simp [decodeStep, h]

theorem decodeStep_readLow (pol : SyncPolicy) (acc : Word32) (b : Byte) (h : ¬ (pol = .resync ∧ b = syncByte)) :
    decodeStep pol .readLow acc b = (.awaitSync, 0, completeFrame (accWithLow acc b)) := by
  simp [decodeStep, h]

/-! ### The accumulator's fields -/

theorem accIndex_accWithLow (acc : Word32) (b : Byte) : accIndex (accWithLow acc b) = acc.extractLsb' 16 8 := by
  unfold accIndex accWithLow zext32
  ext i hi
  simp
  interval_cases i <;> simp

theorem accRaw_accWithLow (acc : Word32) (b : Byte) :
    accRaw (accWithLow acc b) = acc.extractLsb' 8 8 ++ b := by
  apply BitVec.eq_of_getLsbD_eq
  intro i hi
  rw [BitVec.getLsbD_append]
  unfold accRaw accWithLow zext32
  interval_cases i <;> simp

/-! ### What an event and a fed byte leave alone -/

variable (s : State)

@[simp] theorem State.apply_cfg (ev : Event) : (s.apply ev).cfg = s.cfg := by cases ev <;> rfl
@[simp] theorem State.apply_mem (ev : Event) : (s.apply ev).mem = s.mem := by cases ev <;> rfl
@[simp] theorem State.apply_wp (ev : Event) : (s.apply ev).wp = s.wp := by cases ev <;> rfl
@[simp] theorem State.apply_rp (ev : Event) : (s.apply ev).rp = s.rp := by cases ev <;> rfl
@[simp] theorem State.apply_ovfCnt (ev : Event) : (s.apply ev).ovfCnt = s.ovfCnt := by cases ev <;> rfl
@[simp] theorem State.apply_pstate (ev : Event) : (s.apply ev).pstate = s.pstate := by cases ev <;> rfl
@[simp] theorem State.apply_drainN (ev : Event) : (s.apply ev).drainN = s.drainN := by cases ev <;> rfl
@[simp] theorem State.apply_cpPending (ev : Event) : (s.apply ev).cpPending = s.cpPending := by cases ev <;> rfl
@[simp] theorem State.apply_resets (ev : Event) : (s.apply ev).resets = s.resets := by cases ev <;> rfl
@[simp] theorem State.apply_producerIn (ev : Event) : (s.apply ev).producerIn = s.producerIn := by cases ev <;> rfl
@[simp] theorem State.apply_hostIn (ev : Event) : (s.apply ev).hostIn = s.hostIn := by cases ev <;> rfl
@[simp] theorem State.apply_turns (ev : Event) : (s.apply ev).turns = s.turns := by cases ev <;> rfl
@[simp] theorem State.apply_responses (ev : Event) : (s.apply ev).responses = s.responses := by cases ev <;> rfl
@[simp] theorem State.apply_stage (ev : Event) : (s.apply ev).stage = s.stage := by cases ev <;> rfl
@[simp] theorem State.apply_acc (ev : Event) : (s.apply ev).acc = s.acc := by cases ev <;> rfl

@[simp] theorem State.feed_cfg (b : Byte) : (s.feed b).cfg = s.cfg := by simp [State.feed]
@[simp] theorem State.feed_mem (b : Byte) : (s.feed b).mem = s.mem := by simp [State.feed]
@[simp] theorem State.feed_wp (b : Byte) : (s.feed b).wp = s.wp := by simp [State.feed]
@[simp] theorem State.feed_rp (b : Byte) : (s.feed b).rp = s.rp := by simp [State.feed]
@[simp] theorem State.feed_ovfCnt (b : Byte) : (s.feed b).ovfCnt = s.ovfCnt := by simp [State.feed]
@[simp] theorem State.feed_pstate (b : Byte) : (s.feed b).pstate = s.pstate := by simp [State.feed]
@[simp] theorem State.feed_drainN (b : Byte) : (s.feed b).drainN = s.drainN := by simp [State.feed]
@[simp] theorem State.feed_cpPending (b : Byte) : (s.feed b).cpPending = s.cpPending := by simp [State.feed]
@[simp] theorem State.feed_resets (b : Byte) : (s.feed b).resets = s.resets := by simp [State.feed]
@[simp] theorem State.feed_producerIn (b : Byte) : (s.feed b).producerIn = s.producerIn := by simp [State.feed]
@[simp] theorem State.feed_hostIn (b : Byte) : (s.feed b).hostIn = s.hostIn := by simp [State.feed]
@[simp] theorem State.feed_turns (b : Byte) : (s.feed b).turns = s.turns := by simp [State.feed]
@[simp] theorem State.feed_responses (b : Byte) : (s.feed b).responses = s.responses := by simp [State.feed]

/-- The decoder's registers after a fed byte are those of the decoder step. -/
theorem State.feed_stage (b : Byte) : (s.feed b).stage = (decodeStep s.cfg.syncPolicy s.stage s.acc b).1 := by
  simp [State.feed]

theorem State.feed_acc (b : Byte) : (s.feed b).acc = (decodeStep s.cfg.syncPolicy s.stage s.acc b).2.1 := by
  simp [State.feed]

theorem State.feedEvent_eq (b : Byte) : s.feedEvent b = (decodeStep s.cfg.syncPolicy s.stage s.acc b).2.2 := rfl

/-- What an event does depends on the decoder's view alone. -/
theorem State.apply_decoderView_congr (t : State) (ev : Event) (h : s.decoderView = t.decoderView) :
    (s.apply ev).decoderView = (t.apply ev).decoderView := by
  simp only [State.decoderView, DecoderView.mk.injEq] at h
  obtain ⟨h1, h2, h3, h4, h5⟩ := h
  cases ev <;> simp [State.apply, State.decoderView, h1, h2, h3, h4, h5]

/-- What a fed byte does depends on the policy and the decoder's view alone (R72: "It reads no other state"). -/
theorem State.feed_decoderView_congr (t : State) (b : Byte) (hp : s.cfg.syncPolicy = t.cfg.syncPolicy)
    (h : s.decoderView = t.decoderView) : (s.feed b).decoderView = (t.feed b).decoderView := by
  have hv := h
  simp only [State.decoderView, DecoderView.mk.injEq] at h
  obtain ⟨h1, h2, h3, h4, h5⟩ := h
  simp only [State.feed, State.feedEvent, hp, h1, h2]
  refine State.apply_decoderView_congr _ _ _ ?_
  simp [State.decoderView, h3, h4, h5]

/-- A fed byte, from what the decoder step gives for it. -/
theorem State.feed_of (b : Byte) {stage : Stage} {acc : Word32} {ev : Event}
    (h : decodeStep s.cfg.syncPolicy s.stage s.acc b = (stage, acc, ev)) :
    s.feed b = State.apply { s with stage := stage, acc := acc } ev := by
  simp [State.feed, State.feedEvent, h, State.setDecoder]

theorem State.feedAll_append (bs cs : List Byte) : s.feedAll (bs ++ cs) = (s.feedAll bs).feedAll cs := by
  induction bs generalizing s with
  | nil => rfl
  | cons b bs ih => exact ih (s.feed b)

@[simp] theorem State.feedAll_cfg (bs : List Byte) : (s.feedAll bs).cfg = s.cfg := by
  induction bs generalizing s with
  | nil => rfl
  | cons b bs ih => simp [State.feedAll, ih]

/-- What a run of bytes does to the decoder depends on the policy and the decoder's view alone. -/
theorem State.feedAll_decoderView_congr (t : State) (bs : List Byte) (hp : s.cfg.syncPolicy = t.cfg.syncPolicy)
    (h : s.decoderView = t.decoderView) : (s.feedAll bs).decoderView = (t.feedAll bs).decoderView := by
  induction bs generalizing s t with
  | nil => exact h
  | cons b bs ih => exact ih _ _ (by simpa using hp) (State.feed_decoderView_congr s t b hp h)

/-! ### The bytes a list of producer words pushes -/

theorem pushedBytes_cons_push {w : Word16} {b : Byte} (ws : List Word16) (h : decode .producer w = .instr (.push b)) :
    pushedBytes (w :: ws) = b :: pushedBytes ws := by
  simp [pushedBytes, h]

theorem pushedBytes_cons_illegal {w : Word16} {why : Illegal} (ws : List Word16)
    (h : decode .producer w = .illegal why) : pushedBytes (w :: ws) = pushedBytes ws := by
  simp [pushedBytes, h]

end Sys2Proof.Machine
end

