-- ==== Sys2Proof/Laws/Ring.lean ====
section
/-! SUPPORT. Storing a byte and dropping the oldest one keep the ring buffer's invariant: the slots of the live queue and
the slot a PUSH stores to, and what the two do to the queue (spec/10_state.md R18 to R20), and the channel registers' reads and writes (R24, R25). -/

namespace Sys2Proof.Machine

/-! ### Slots -/

/-- The slot of the `k`-th live byte, by the pointer it has: once around at 2·CAP, once more at CAP. -/
theorem State.liveSlot_cases (s : State) (h : s.RingOk) (k : Nat) (hk : k < 2 * s.cfg.cap) :
    ∃ p, p < 2 * s.cfg.cap ∧ (p = s.rp + k ∨ p + 2 * s.cfg.cap = s.rp + k) ∧
      ((p < s.cfg.cap ∧ s.liveSlot k = p) ∨ (s.cfg.cap ≤ p ∧ s.liveSlot k + s.cfg.cap = p)) := by
  have hr := h.rpRange
  have hp : (s.rp + k) % (2 * s.cfg.cap) < 2 * s.cfg.cap := Nat.mod_lt _ (by omega)
  refine ⟨(s.rp + k) % (2 * s.cfg.cap), hp, ?_, ?_⟩
  · by_cases hlt : s.rp + k < 2 * s.cfg.cap
    · exact .inl (Nat.mod_eq_of_lt hlt)
    · right
      rw [Nat.mod_eq_sub_mod (by omega), Nat.mod_eq_of_lt (by omega)]
      omega
  · unfold State.liveSlot
    by_cases hlt : (s.rp + k) % (2 * s.cfg.cap) < s.cfg.cap
    · exact .inl ⟨hlt, Nat.mod_eq_of_lt hlt⟩
    · refine .inr ⟨by omega, ?_⟩
      rw [Nat.mod_eq_sub_mod (by omega), Nat.mod_eq_of_lt (by omega)]
      omega

theorem State.pushSlot_cases (s : State) (h : s.RingOk) :
    (s.wp < s.cfg.cap ∧ s.pushSlot = s.wp) ∨ (s.cfg.cap ≤ s.wp ∧ s.pushSlot + s.cfg.cap = s.wp) := by
  have := h.wpRange
  unfold State.pushSlot
  by_cases hlt : s.wp < s.cfg.cap
  · exact .inl ⟨hlt, Nat.mod_eq_of_lt hlt⟩
  · refine .inr ⟨by omega, ?_⟩
    rw [Nat.mod_eq_sub_mod (by omega), Nat.mod_eq_of_lt (by omega)]
    omega

/-- Where there is room, a PUSH stores to no live slot. -/
theorem State.liveSlot_ne_pushSlot (s : State) (h : s.RingOk) (k : Nat) (hl : s.level ≠ s.cfg.cap)
    (hk : k < s.level) : s.liveSlot k ≠ s.pushSlot := by
  have h1 := State.level_cases s h.wpRange h.rpRange
  have hle := h.levelLe
  obtain ⟨p, hp, hp2, hp3⟩ := s.liveSlot_cases h k (by omega)
  have hs := s.pushSlot_cases h
  have hw := h.wpRange
  have hr := h.rpRange
  omega

/-- The slot a PUSH stores to is the one after the live queue. -/
theorem State.liveSlot_level (s : State) (h : s.RingOk) : s.liveSlot s.level = s.pushSlot := by
  have h1 := State.level_cases s h.wpRange h.rpRange
  have hle := h.levelLe
  have hcap := (Config.wf_bounds h.cfgWf).1
  obtain ⟨p, hp, hp2, hp3⟩ := s.liveSlot_cases h s.level (by omega)
  have hs := s.pushSlot_cases h
  have hw := h.wpRange
  have hr := h.rpRange
  omega

theorem State.liveSlot_dropOldest (s : State) (k : Nat) : s.dropOldest.liveSlot k = s.liveSlot (k + 1) := by
  simp only [State.liveSlot, State.dropOldest_rp, State.dropOldest_cfg, State.nextPtr]
  congr 1
  rw [Nat.mod_add_mod]
  congr 1
  omega

theorem State.liveSlot_zero (s : State) (h : s.RingOk) : s.liveSlot 0 = s.popSlot := by
  simp only [State.liveSlot, State.popSlot]
  rw [Nat.add_zero, Nat.mod_eq_of_lt h.rpRange]

/-! ### The ring's invariant and the storage's -/

theorem State.RingOk.congr {s t : State} (h : s.RingOk) (hc : t.cfg = s.cfg) (hw : t.wp = s.wp)
    (hr : t.rp = s.rp) : t.RingOk := by
  have hl := State.level_congr s t hc hw hr
  exact ⟨hc ▸ h.cfgWf, by rw [hc, hw]; exact h.wpRange, by rw [hc, hr]; exact h.rpRange,
    by rw [hc, hl]; exact h.levelLe⟩

theorem State.RingOk.storeByte {s : State} (b : Byte) (h : s.RingOk) (hl : s.level ≠ s.cfg.cap) :
    (s.storeByte b).RingOk := by
  have := State.level_storeByte s b h hl
  have := h.levelLe
  exact ⟨h.cfgWf, State.nextPtr_lt s _ (Config.wf_bounds h.cfgWf).1, h.rpRange,
    by simp only [State.storeByte_cfg]; omega⟩

theorem State.RingOk.dropOldest {s : State} (h : s.RingOk) (hl : s.level ≠ 0) : s.dropOldest.RingOk := by
  have := State.level_dropOldest s h hl
  have := h.levelLe
  exact ⟨h.cfgWf, h.wpRange, State.nextPtr_lt s _ (Config.wf_bounds h.cfgWf).1,
    by simp only [State.dropOldest_cfg]; omega⟩

theorem State.StorageOk.congr {s t : State} (h : s.StorageOk) (hc : t.cfg = s.cfg) (hm : t.mem = s.mem)
    (hw : t.wp = s.wp) (hr : t.rp = s.rp) : t.StorageOk := by
  have hl := State.level_congr s t hc hw hr
  have hs : ∀ k, t.liveSlot k = s.liveSlot k := fun k => by simp only [State.liveSlot, hc, hr]
  exact ⟨hm ▸ h.memWf, by rw [hm, hc]; exact h.memSlots,
    fun k hk => by rw [hm, hs]; exact h.liveWritten k (hl ▸ hk)⟩

theorem State.StorageOk.storeByte {s : State} (b : Byte) (hr : s.RingOk) (h : s.StorageOk)
    (hl : s.level ≠ s.cfg.cap) : (s.storeByte b).StorageOk := by
  refine ⟨Memory.wf_write _ _ _ h.memWf, fun c hc => ?_, fun k hk => ?_⟩
  · rcases Memory.mem_write _ _ _ _ hc with rfl | hc
    · exact Nat.mod_lt _ (Config.wf_bounds hr.cfgWf).1
    · exact h.memSlots c hc
  · rw [State.level_storeByte s b hr hl] at hk
    change (Memory.read (Memory.write s.mem s.pushSlot b) (s.liveSlot k)).isSome = true
    by_cases he : s.liveSlot k = s.pushSlot
    · rw [he, Memory.read_write_same]
      rfl
    · rw [Memory.read_write_other _ _ _ _ he]
      have hk' : k ≠ s.level := fun hk' => he (hk' ▸ s.liveSlot_level hr)
      exact h.liveWritten k (by omega)

theorem State.StorageOk.dropOldest {s : State} (hr : s.RingOk) (h : s.StorageOk) (hl : s.level ≠ 0) :
    s.dropOldest.StorageOk := by
  refine ⟨h.memWf, h.memSlots, fun k hk => ?_⟩
  rw [s.liveSlot_dropOldest]
  have := State.level_dropOldest s hr hl
  exact h.liveWritten (k + 1) (by omega)

/-! ### The live queue -/

theorem State.memRead_congr (s t : State) (hm : t.mem = s.mem) (hr : t.resets = s.resets) (k : Nat) :
    t.memRead k = s.memRead k := by
  simp [State.memRead, hm, hr]

/-- The live queue depends on the ring buffer's own fields alone. -/
theorem State.queue_congr (s t : State) (hc : t.cfg = s.cfg) (hm : t.mem = s.mem) (hr : t.resets = s.resets)
    (hw : t.wp = s.wp) (hp : t.rp = s.rp) : t.queue = s.queue := by
  unfold State.queue
  rw [State.level_congr s t hc hw hp]
  refine List.map_congr_left fun k _ => ?_
  rw [State.memRead_congr s t hm hr]
  simp [State.liveSlot, hc, hp]

@[simp] theorem State.length_queue (s : State) : s.queue.length = s.level := by simp [State.queue]

theorem State.queue_eq_nil_iff (s : State) : s.queue = [] ↔ s.level = 0 := by
  rw [← s.length_queue, List.length_eq_zero_iff]

/-- A stored byte is the newest of the queue. -/
theorem State.queue_storeByte (s : State) (b : Byte) (h : s.RingOk) (hl : s.level ≠ s.cfg.cap) :
    (s.storeByte b).queue = s.queue ++ [b] := by
  unfold State.queue
  rw [State.level_storeByte s b h hl, List.range_succ, List.map_append]
  congr 1
  · refine List.map_congr_left fun k hk => ?_
    have hne := s.liveSlot_ne_pushSlot h k hl (List.mem_range.mp hk)
    change (match Memory.read (Memory.write s.mem s.pushSlot b) (s.liveSlot k) with | some b => b | none => _) = _
    rw [Memory.read_write_other _ _ _ _ hne]
    rfl
  · simp only [List.map_cons, List.map_nil]
    change [match Memory.read (Memory.write s.mem s.pushSlot b) (s.liveSlot s.level) with
      | some b => b | none => _] = _
    rw [s.liveSlot_level h, Memory.read_write_same]

/-- The oldest byte of the queue is the one a pop reads, and the rest is the queue without it. -/
theorem State.queue_dropOldest (s : State) (h : s.RingOk) (hl : s.level ≠ 0) :
    s.queue = s.memRead s.popSlot :: s.dropOldest.queue := by
  unfold State.queue
  rw [← State.level_dropOldest s h hl, List.range_succ_eq_map, List.map_cons, s.liveSlot_zero h, List.map_map]
  congr 1
  refine List.map_congr_left fun k _ => ?_
  simp only [Function.comp]
  rw [s.liveSlot_dropOldest]
  rfl

/-! ### The channel registers -/

theorem State.channel_eq (s : State) (i : Byte) (h : i.toNat < 16) : s.channel i = s.ch[i.toNat] := by
  simp [State.channel, Vector.getD, Array.getD, h]

/-- A write of a channel register is read back whole (R25). -/
theorem State.channel_setChannel_same (s : State) (i : Byte) (v : Word16) (h : i.toNat < 16) :
    (s.setChannel i v).channel i = v := by
  rw [State.channel_eq _ _ h]
  simp

/-- A write of one channel register leaves every other as it was. -/
theorem State.channel_setChannel_other (s : State) (i j : Byte) (v : Word16) (hj : j.toNat < 16) (h : i ≠ j) :
    (s.setChannel i v).channel j = s.channel j := by
  have hne : i.toNat ≠ j.toNat := fun he => h (BitVec.eq_of_toNat_eq he)
  rw [State.channel_eq _ _ hj, State.channel_eq _ _ hj]
  simp [hne]

end Sys2Proof.Machine
end

