-- ==== Sys2Proof/Laws/Step.lean ====
section
/-! SUPPORT. Everything one command, one transition and one step can do, said once: inversion lemmas. -/

namespace Sys2Proof.Machine

variable {s t : State}

/-! ### Commands -/

theorem execPop_cases (h : exec .pop s = .next t) :
    (s.pstate = .stopped ∧ t = s.respond .control .stopped 0) ∨
    ((s.pstate = .running ∨ s.pstate = .yielding) ∧ t = s.respond .control .busy 0) ∨
    ((s.pstate = .idle ∨ s.pstate = .draining) ∧ s.level = 0 ∧ t = s.respond .control .empty 0) ∨
    ((s.pstate = .idle ∨ s.pstate = .draining) ∧ s.level ≠ 0 ∧
      t = s.dropOldest.respond .control .ok (zext32 (s.memRead s.popSlot))) := by
  simp only [exec, execPop, State.popByte] at h
  rcases s.popInternal_cases with ⟨hl, hp⟩ | ⟨hl, hp⟩ <;> rw [hp] at h <;>
    cases hs : s.pstate <;> simp [hs] at h <;> simp [hl, ← h]

theorem execStep_cases {b : Byte} (h : exec (.step b) s = .next t) :
    (s.pstate = .stopped ∧ t = s.respond .control .stopped 0) ∨
    ((s.pstate = .running ∨ s.pstate = .yielding) ∧ t = s.respond .control .busy 0) ∨
    ((s.pstate = .idle ∨ s.pstate = .draining) ∧
      t = (s.feed b).respond .control .ok (s.feedEvent b).word) := by
  simp only [exec, execStep, byteOperand] at h
  cases hs : s.pstate <;> simp [hs] at h <;> simp [← h]

theorem execGet_cases {n : Byte} (h : exec (.get n) s = .next t) :
    (n.toNat ≤ 15 ∧ t = s.respond .control .ok (sext32 (s.channel n))) ∨
    (15 < n.toNat ∧ t = s.respond .control .notFound 0) := by
  have hn : (indexOperand n).toNat = n.toNat := by
    have := n.isLt
    simp only [indexOperand, zext32, BitVec.truncate_eq_setWidth, BitVec.toNat_setWidth]
    omega
  simp only [exec, execGet] at h
  split at h <;> rename_i hi <;> rw [hn] at hi <;> cases h
  · exact .inl ⟨hi, rfl⟩
  · exact .inr ⟨by omega, rfl⟩

theorem execDrain_cases (h : exec .drain s = .next t) :
    (s.cfg.drainMode = .coop ∧ t = s.respond .control .mode 0) ∨
    (s.cfg.drainMode = .nb ∧ s.pstate = .stopped ∧ t = s.respond .control .stopped 0) ∨
    (s.cfg.drainMode = .nb ∧ s.pstate ≠ .stopped ∧
      t = { s with pstate := .draining, drainN := 0, cpPending := true }) := by
  simp only [exec, execDrain] at h
  cases hm : s.cfg.drainMode <;> simp only [hm, reduceCtorEq, if_false, if_true] at h
  · split at h <;> cases h <;> simp_all
  · cases h
    simp

theorem execResync_cases (h : exec .resync s = .next t) :
    (s.pstate = .stopped ∧ t = s.respond .control .stopped 0) ∨
    (s.pstate ≠ .stopped ∧ t = (s.setDecoder .awaitSync 0).respond .control .ok 0) := by
  simp only [exec, execResync] at h
  split at h <;> cases h
  · exact .inl ⟨‹_›, rfl⟩
  · exact .inr ⟨‹_›, rfl⟩

theorem execTeardown_cases (h : exec .teardown s = .next t) :
    t = ((s.setPump .stopped).setDecoder .awaitSync 0).respond .control .ok 0 := by
  cases h
  rfl

theorem execRdcnt_cases {k : Byte} (h : exec (.rdcnt k) s = .next t) :
    (∃ n, s.counter (selectorOperand k) = some n ∧ t = s.respond .control .ok n) ∨
    (s.counter (selectorOperand k) = none ∧ t = s.respond .control .notFound 0) := by
  simp only [exec, execRdcnt] at h
  split at h <;> cases h
  · exact .inl ⟨_, ‹_›, rfl⟩
  · exact .inr ⟨‹_›, rfl⟩

theorem execRdstat_cases (h : exec .rdstat s = .next t) : t = s.respond .control .ok s.statusWord := by
  cases h
  rfl

theorem execPush_cases {b : Byte} (h : exec (.push b) s = .next t) :
    (s.level = s.cfg.cap ∧ t = s.countOverflow.respond .producer .full 0) ∨
    (s.level ≠ s.cfg.cap ∧ t = (s.storeByte b).respond .producer .ok 0) := by
  simp only [exec, execPush, byteOperand] at h
  rcases s.pushByte_cases b with ⟨hl, hp⟩ | ⟨hl, hp⟩ <;> rw [hp] at h <;> cases h
  · exact .inl ⟨hl, rfl⟩
  · exact .inr ⟨hl, rfl⟩

/-! ### Transitions -/

/-- A word offered on a port is run as the instruction it decodes to, or answered ILLEGAL (R57, R58). -/
theorem issue_cases {p : Port} {w : Word16} (h : issue p w s = .next t) :
    (∃ i, decode p w = .instr i ∧ exec i s = .next t) ∨
    (∃ why, decode p w = .illegal why ∧ t = s.respond p .illegal 0) := by
  unfold issue at h
  split at h
  · exact .inl ⟨_, ‹_›, h⟩
  · cases h
    exact .inr ⟨_, ‹_›, rfl⟩

/-- Everything a pump step can do (R91, R93, R95). -/
theorem State.pumpStep_cases (s : State) :
    (s.pstate = .draining ∧ s.level = 0 ∧
      s.pumpStep = ({ s with pstate := .idle, cpPending := false } : State).respond .control .ok s.drainN) ∨
    (s.pstate = .draining ∧ s.level ≠ 0 ∧
      s.pumpStep = { s.dropOldest.feed (s.memRead s.popSlot) with drainN := inc32 s.drainN }) ∨
    (s.pstate = .running ∧ s.level = 0 ∧ s.pumpStep = s.setPump .yielding) ∨
    (s.pstate = .running ∧ s.level ≠ 0 ∧ s.pumpStep = s.dropOldest.feed (s.memRead s.popSlot)) ∨
    (s.pumpEnabled = false ∧ s.pumpStep = s) := by
  rcases s.popInternal_cases with ⟨hl, hp⟩ | ⟨hl, hp⟩ <;> cases hs : s.pstate <;>
    simp [State.pumpStep, State.pumpStepNB, State.pumpStepCOOP, State.pumpEnabled, hs, hp, hl]

/-- A transition offered where it may not be enabled: taken there, or nothing happens. -/
theorem fireIfEnabled_cases {l : Transition} (h : fireIfEnabled l s = .next t) :
    (l.enabled s = true ∧ fire l s = .next t) ∨ (l.enabled s = false ∧ t = s) := by
  unfold fireIfEnabled at h
  split at h
  · exact .inl ⟨‹_›, h⟩
  · cases h
    exact .inr ⟨Bool.eq_false_iff.mpr ‹_›, rfl⟩

/-- YIELD_DONE where it is enabled (R96). -/
theorem fire_yieldDone (h : Transition.enabled s .yieldDone = true) :
    s.pstate = .yielding ∧ fire .yieldDone s = .next (s.setPump .running) := by
  have hy : s.pstate = .yielding := by simpa [Transition.enabled, State.yieldDoneEnabled] using h
  exact ⟨hy, by simp [fire, State.yieldDone, hy]⟩

/-- Everything a step can do (R42, R43): the state the turn leaves the agent in, and the transition it takes there. -/
theorem step_cases (h : step s = .next t) :
    (∃ as w ws, s.turns = .producer :: as ∧ s.producerIn = w :: ws ∧
      issue .producer w { s with turns := as, producerIn := ws } = .next t) ∨
    (∃ as w ws, s.turns = .host :: as ∧ s.cpPending = false ∧ s.hostIn = w :: ws ∧
      issue .control w { s with turns := as, hostIn := ws } = .next t) ∨
    (∃ as, s.turns = .reset :: as ∧ t = State.resetElements { s with turns := as }) ∨
    (s.pumpEnabled = true ∧ t = State.pumpStep { s with turns := s.turns.tail }) ∨
    (s.pstate = .yielding ∧ t = State.setPump { s with turns := s.turns.tail } .running) ∨
    t = { s with turns := s.turns.tail } := by
  have pump : ∀ u : State, fire .pump { s with turns := s.turns.tail } = .next u →
      u = State.pumpStep { s with turns := s.turns.tail } := by
    intro u hu
    cases hu
    rfl
  have yieldDone : ∀ u : State, fireIfEnabled .yieldDone { s with turns := s.turns.tail } = .next u →
      (s.pstate = .yielding ∧ u = State.setPump { s with turns := s.turns.tail } .running) ∨
      u = { s with turns := s.turns.tail } := by
    intro u hu
    rcases fireIfEnabled_cases hu with ⟨he, hf⟩ | ⟨-, rfl⟩
    · obtain ⟨hy, hf'⟩ := fire_yieldDone he
      rw [hf'] at hf
      cases hf
      exact .inl ⟨hy, rfl⟩
    · exact .inr rfl
  unfold step at h
  split at h
  · rename_i ht
    have htail : ({ s with turns := s.turns.tail } : State) = s := by
      rw [ht, List.tail_nil, ← ht]
    rw [htail] at pump yieldDone ⊢
    unfold openTurn at h
    split at h
    · exact .inr (.inr (.inr (.inl ⟨‹_›, pump t h⟩)))
    · exact .inr (.inr (.inr (.inr (yieldDone t h))))
  · rename_i a as ht
    have htail : s.turns.tail = as := by rw [ht, List.tail_cons]
    rw [htail] at pump yieldDone ⊢
    cases a with
    | producer =>
      simp only [takeTurn, producerTurn] at h
      split at h
      · cases h
        simp
      · exact .inl ⟨_, _, _, ht, ‹_›, h⟩
    | host =>
      simp only [takeTurn, hostTurn] at h
      split at h
      · cases h
        simp
      · rename_i hc
        split at h
        · cases h
          simp
        · exact .inr (.inl ⟨_, _, _, ht, by simpa using hc, ‹_›, h⟩)
    | pump =>
      rcases fireIfEnabled_cases h with ⟨he, hf⟩ | ⟨-, rfl⟩
      · exact .inr (.inr (.inr (.inl ⟨he, pump t hf⟩)))
      · simp
    | scheduler => exact .inr (.inr (.inr (.inr (yieldDone t h))))
    | reset =>
      cases h
      exact .inr (.inr (.inl ⟨_, ht, rfl⟩))

/-- A run of one step more is a step and then the run. -/
theorem core_run_succ (M : Host.Core) (k : Nat) (s t : M.State) (h : M.step s = .next t) :
    M.run (k + 1) s = M.run k t := by
  simp [Host.Core.run, h]

theorem run_succ (k : Nat) (h : step s = .next t) : run (k + 1) s = run k t := core_run_succ core k s t h

end Sys2Proof.Machine
end

