-- ==== Sys2Proof/Tests/Slice0.lean ====
section
/-! SUPPORT. The model's own tests, each on one step or one word, with its expected result from spec/95_test_vectors.md or
from a worked example of a rule (named in each docstring); and, for each statement that has hypotheses, a witness that
meets them. -/

namespace Sys2Proof.Machine

/-! ### Small states -/

/-- A small NB instance: CAP 4, LITERAL. -/
def nb4 : Config := ⟨4, .nb, .literal, 20⟩

/-- A small NB instance with the RESYNC policy. -/
def nb4r : Config := ⟨4, .nb, .resync, 20⟩

/-- A small COOP instance: CAP 4, LITERAL. -/
def coop4 : Config := ⟨4, .coop, .literal, 20⟩

/-- A small NB instance right after reset. -/
def idle : State := State.resetOf nb4

/-- A small COOP instance right after reset: its pump is RUNNING. -/
def running : State := State.resetOf coop4

/-- The small COOP instance, its pump YIELDING. -/
def yielding : State := { running with pstate := .yielding }

/-- The small NB instance after TEARDOWN. -/
def stopped : State := { idle with pstate := .stopped }

/-- The small NB instance with the queue [0x41]. -/
def one : State := { idle with mem := [(0, 0x41)], wp := 1 }

/-- The small NB instance, full, with the queue [0x10, 0x11, 0x12, 0x13]. -/
def full : State := { idle with mem := [(0, 0x10), (1, 0x11), (2, 0x12), (3, 0x13)], wp := 4 }

/-- The small NB instance with the queue [0x41] and a DRAIN outstanding. -/
def draining : State := { one with pstate := .draining, cpPending := true }

/-- The small NB instance with an empty buffer and a DRAIN outstanding. -/
def drainingEmpty : State := { idle with pstate := .draining, cpPending := true }

/-- An instance with its decoder at a stage and an accumulator. -/
def at_ (c : Config) (stage : Stage) (acc : Word32) : State := { State.resetOf c with stage := stage, acc := acc }

/-- The newest response of an answer. -/
def lastWord (a : Answer) : Option Word40 := (stateOf a).bind fun s => s.responses.head?.map Response.word

/-! ### WellFormed: ill-formed terms are refused -/

/-- R57: PUSH on the control port. -/
theorem test_push_is_illformed_on_control : Instr.wellFormed .control (.push 0) = false := by decide
/-- R57: any other command on the producer port. -/
theorem test_get_is_illformed_on_producer : Instr.wellFormed .producer (.get 0) = false := by decide
theorem test_drain_is_illformed_on_producer : Instr.wellFormed .producer .drain = false := by decide
theorem test_push_is_wellformed_on_producer : Instr.wellFormed .producer (.push 0xB5) = true := by decide
/-- R7: CAP is 1..65535. -/
theorem test_capacity_bounds : Config.wf ⟨0, .nb, .literal, 20⟩ = false ∧ Config.wf ⟨65536, .nb, .literal, 20⟩ = false ∧
    Config.wf ⟨1, .nb, .literal, 20⟩ = true ∧ Config.wf ⟨65535, .coop, .resync, 20⟩ = true := by decide
/-- R64, R66: the encoder's value range. -/
theorem test_frame_value_bounds : frameValueOk (-1025) = false ∧ frameValueOk 64512 = false ∧
    frameValueOk (-1024) = true ∧ frameValueOk 64511 = true := by decide
/-- R65, R66: what the assembler refuses. -/
theorem test_assembler_refuses : AsmLine.wf (.frame 256 0) = false ∧ AsmLine.wf (.frame 0 (-1025)) = false ∧
    AsmLine.wf (.bytes [0, 256]) = false ∧ AsmLine.wf (.command ⟨['P', 'U', 'S', 'H'], 1, true⟩ (some 256)) = false ∧
    AsmLine.wf (.command ⟨['P', 'O', 'P'], 2, false⟩ (some 0)) = false ∧
    AsmLine.wf (.command ⟨['G', 'E', 'T'], 4, true⟩ none) = false := by decide

/-! ### Decode: a word written out from R55 for every constructor, and every kind of illegal word by name -/

/-- R55 "0001 0000 bbbbbbbb"; DV-E1. -/
theorem test_decode_push : decode .producer 0b0001_0000_10110101 = .instr (.push 0xB5) := by decide
theorem test_decode_pop : decode .control 0b0010_0000_00000000 = .instr .pop := by decide
theorem test_decode_step : decode .control 0b0011_0000_10110101 = .instr (.step 0xB5) := by decide
theorem test_decode_get : decode .control 0b0100_0000_00001111 = .instr (.get 15) := by decide
theorem test_decode_drain : decode .control 0b0101_0000_00000000 = .instr .drain := by decide
theorem test_decode_resync : decode .control 0b0110_0000_00000000 = .instr .resync := by decide
theorem test_decode_teardown : decode .control 0b0111_0000_00000000 = .instr .teardown := by decide
theorem test_decode_rdcnt : decode .control 0b1000_0000_00000010 = .instr (.rdcnt 2) := by decide
theorem test_decode_rdstat : decode .control 0b1001_0000_00000000 = .instr .rdstat := by decide
/-- R57, in the order of R58's checks. -/
theorem test_decode_illegal :
    decode .producer 0x1100 = .illegal .reservedBits ∧ decode .control 0x0000 = .illegal .reservedOpcode ∧
    decode .control 0xA000 = .illegal .reservedOpcode ∧ decode .control 0xF0FF = .illegal .reservedOpcode ∧
    decode .control 0x2001 = .illegal .nonzeroArg ∧ decode .control 0x90FF = .illegal .nonzeroArg ∧
    decode .control 0x10B5 = .illegal .wrongPort ∧ decode .producer 0x4000 = .illegal .wrongPort := by decide
theorem test_decode_table_words :
    decodeTableWord 16 0x1000 = some (.push 0) ∧ decodeTableWord 16 0x30FF = some (.step 0xFF) ∧
    decodeTableWord 16 0x9000 = some .rdstat ∧ decodeTableWord 16 0x9001 = none := by decide
/-- A word offered right after reset is the one the first step runs. -/
theorem test_fetched_words_run :
    lastWord (step (State.reset.withFetchWord 16 0x10B5)) = some 0x0000000000 ∧
    lastWord (step (State.reset.withFetchWord 16 0x9000)) = some 0x0000000100 := by decide
theorem test_illegal_word_is_answered : lastWord (issue .producer 0x1100 idle) = some 0x0400000000 := by decide

/-! ### One step of each command and internal event -/

/-- P3: the fifth PUSH into CAP 4, and the example of R67. -/
theorem test_push_full : lastWord (exec (.push 0x14) full) = some 0x0200000000 ∧
    (stateOf (exec (.push 0x14) full)).map (fun s => (s.ovfCnt, s.queue)) = some (1, [0x10, 0x11, 0x12, 0x13]) := by
  decide
/-- P3's last line: WP 4 becomes 5 and slot 0 is rewritten. -/
theorem test_push_wraps : (stateOf (exec (.push 0x20) { full with rp := 4 })).map (fun s => (s.wp, s.mem, s.queue)) =
    some (5, [(0, 0x20), (1, 0x11), (2, 0x12), (3, 0x13)], [0x20]) := by decide
/-- The example of R70. -/
theorem test_pop : lastWord (exec .pop one) = some 0x0000000041 ∧ lastWord (exec .pop idle) = some 0x0100000000 := by
  decide
/-- P6: after TEARDOWN, and while a cooperative task runs. -/
theorem test_pop_refused : lastWord (exec .pop stopped) = some 0x0600000000 ∧
    lastWord (exec .pop running) = some 0x0500000000 := by decide
/-- DV-S3, DV-S5. -/
theorem test_step : lastWord (exec (.step 0x34) (at_ nb4 .readLow 0x000F1200)) = some 0x000E340F01 ∧
    lastWord (exec (.step 0x00) (at_ nb4 .readLow 0x00100400)) = some 0x0000001002 := by decide
/-- DV-S7: a SYNC byte inside a frame, under RESYNC. -/
theorem test_step_restart : lastWord (exec (.step 0xB5) (at_ nb4r .readChan 0)) = some 0x0000000004 := by decide
/-- DV-G2, DV-G5. -/
theorem test_get : lastWord (exec (.get 5) (idle.setChannel 5 0xFFFF)) = some 0x00FFFFFFFF ∧
    lastWord (exec (.get 16) idle) = some 0x0300000000 := by decide
/-- DV-N1: accepted, no response yet. -/
theorem test_drain : (stateOf (exec .drain one)).map (fun s => (s.pstate, s.cpPending, s.responses.length)) =
    some (.draining, true, 0) := by decide
/-- DV-N5: MODE comes before STOPPED. -/
theorem test_drain_mode : lastWord (exec .drain { running with pstate := .stopped }) = some 0x0700000000 := by decide
/-- DV-Y1, DV-Y4. -/
theorem test_resync : (stateOf (exec .resync (at_ nb4 .readHigh 0x00050000))).map (fun s => (s.stage, s.acc)) =
    some (.awaitSync, 0) ∧ lastWord (exec .resync stopped) = some 0x0600000000 := by decide
/-- DV-T1. -/
theorem test_teardown : (stateOf (exec .teardown (at_ nb4 .readLow 0x00020400))).map
    (fun s => (s.pstate, s.stage, s.acc)) = some (.stopped, .awaitSync, 0) := by decide
/-- DV-C2, DV-C5. -/
theorem test_rdcnt : lastWord (exec (.rdcnt 1) { idle with oorCnt := 0xFFFFFFFF }) = some 0x00FFFFFFFF ∧
    lastWord (exec (.rdcnt 3) idle) = some 0x0300000000 := by decide
/-- DV-C10, DV-C7. -/
theorem test_rdstat : lastWord (exec .rdstat { at_ nb4r .readLow 0 with wp := 3 }) = some 0x00000300B0 ∧
    lastWord (exec .rdstat running) = some 0x0000000142 := by decide
/-- DV-N3's shape: a DRAIN's pump step, and the one that finds the buffer empty. -/
theorem test_pump_draining : (stateOf (fire .pump draining)).map (fun s => (s.drainN, s.rp, s.desyncCnt)) =
    some (1, 1, 1) ∧ lastWord (fire .pump { drainingEmpty with drainN := 2 }) = some 0x0000000002 := by decide
/-- DV-P1, DV-P2. -/
theorem test_pump_yields : (stateOf (fire .pump running)).map State.pstate = some .yielding ∧
    (stateOf (fire .yieldDone yielding)).map State.pstate = some .running := by decide
/-- DV-X1. -/
theorem test_reset : (stateOf (fire .reset { full with pstate := .stopped, ovfCnt := 2 })).map
    (fun s => (s.pstate, s.ovfCnt, s.queue)) = some (.idle, 0, []) := by decide
/-- DV-V1, DV-V7, DV-V8, DV-V10 (R77). -/
theorem test_frame_values : frameValue 0x0000 = 0xFC00 ∧ frameValue 0x83FF = 0x7FFF ∧ frameValue 0x8400 = 0x8000 ∧
    frameValue 0xFFFF = 0xFBFF := by decide
/-- DV-D12: noise 0xB5 before a frame, under LITERAL. -/
theorem test_noise_sync_literal : idle.feedEvents [0xB5, 0xB5, 0x01, 0x04, 0x00] =
    [.none, .none, .none, .outOfRange 181, .discard] := by decide
/-- DV-D17: the same kind of noise under RESYNC. -/
theorem test_noise_sync_resync : (State.resetOf nb4r).feedEvents [0xB5, 0x01, 0xB5, 0x01, 0x04, 0x00] =
    [.none, .none, .restart, .none, .none, .emit 1 0] := by decide
/-- The example of R66, from text. -/
theorem test_assemble_frame : assembleText ['F', 'R', 'A', 'M', 'E', ' ', '3', ',', ' ', '0', ' ', ';', 'x'] =
    some [(.producer, 0x10B5), (.producer, 0x1003), (.producer, 0x1004), (.producer, 0x1000)] := by decide
/-- The two choices of assumptions 21 and 22. -/
theorem test_assemble_choices : signedNumber ['-', '0', 'x', '1', '0'] = some (-16) ∧
    assembleText ['B', 'Y', 'T', 'E', 'S'] = some [] := by decide
/-- P5's first line. -/
theorem test_assemble_step : assembleText ['S', 'T', 'E', 'P', ' ', '0', 'x', 'B', '5'] =
    some [(.control, 0x30B5)] := by decide

/-! ### The invariant holds in small states -/

theorem idle_inv : idle.Inv :=
  ⟨⟨rfl, by decide, by decide, by decide⟩, ⟨rfl, by decide, by decide⟩, rfl, .inl rfl, by decide⟩
theorem one_inv : one.Inv :=
  ⟨⟨rfl, by decide, by decide, by decide⟩, ⟨rfl, by decide, by decide⟩, rfl, .inl rfl, by decide⟩
theorem full_inv : full.Inv :=
  ⟨⟨rfl, by decide, by decide, by decide⟩, ⟨rfl, by decide, by decide⟩, rfl, .inl rfl, by decide⟩
theorem draining_inv : draining.Inv :=
  ⟨⟨rfl, by decide, by decide, by decide⟩, ⟨rfl, by decide, by decide⟩, rfl, .inr (.inl rfl), by decide⟩
theorem drainingEmpty_inv : drainingEmpty.Inv :=
  ⟨⟨rfl, by decide, by decide, by decide⟩, ⟨rfl, by decide, by decide⟩, rfl, .inr (.inl rfl), by decide⟩
theorem running_inv : running.Inv :=
  ⟨⟨rfl, by decide, by decide, by decide⟩, ⟨rfl, by decide, by decide⟩, rfl, .inl rfl, by decide⟩

/-! ### Witnesses: the hypotheses of each statement are met -/

theorem witness_DecodeIsExactlyTheInverseOfEncode : decode .control 0x9000 = .instr .rdstat ∧
    (Port.control = Instr.port .rdstat ∧ (0x9000 : Word16) = encode .rdstat) := by decide

/-- One illegal word for each condition, at its boundaries, and legal words on both ports. -/
theorem witness_IllegalWordsAreAnsweredAndChangeNothing :
    (0x0000 : Word16).extractLsb' 12 4 = 0 ∧ 0xA ≤ ((0xA000 : Word16).extractLsb' 12 4).toNat ∧
    0xA ≤ ((0xF0FF : Word16).extractLsb' 12 4).toNat ∧ (0x1100 : Word16).extractLsb' 8 4 ≠ 0 ∧
    ((0x2001 : Word16).extractLsb' 0 8 ≠ 0 ∧ ((0x2001 : Word16).extractLsb' 12 4).toNat ∈ [2, 5, 6, 7, 9]) ∧
    ((0x90FF : Word16).extractLsb' 0 8 ≠ 0 ∧ ((0x90FF : Word16).extractLsb' 12 4).toNat ∈ [2, 5, 6, 7, 9]) ∧
    (0x1000 : Word16).extractLsb' 12 4 = 1 ∧ (0x2000 : Word16).extractLsb' 12 4 ≠ 1 ∧
    (decode .control 0x2000 = .instr .pop ∧ decode .control 0x30FF = .instr (.step 0xFF)) ∧
    ¬ ((0x30FF : Word16).extractLsb' 12 4 = 0 ∨ 0xA ≤ ((0x30FF : Word16).extractLsb' 12 4).toNat ∨
      (0x30FF : Word16).extractLsb' 8 4 ≠ 0 ∨
      ((0x30FF : Word16).extractLsb' 0 8 ≠ 0 ∧ ((0x30FF : Word16).extractLsb' 12 4).toNat ∈ [2, 5, 6, 7, 9]) ∨
      (Port.control = .control ∧ (0x30FF : Word16).extractLsb' 12 4 = 1) ∨
      (Port.control = .producer ∧ (0x30FF : Word16).extractLsb' 12 4 ≠ 1)) :=
  ⟨by decide, by decide, by decide, by decide, by decide, by decide, by decide, by decide, by decide, by decide⟩

theorem witness_EachCommandReportsOnlyItsStatuses :
    (∃ t r, exec (.push 0x14) full = .next t ∧ t.responses = r :: full.responses) ∧
    (∃ t r, exec .pop one = .next t ∧ t.responses = r :: one.responses) ∧
    (∃ t r, exec (.step 1) idle = .next t ∧ t.responses = r :: idle.responses) ∧
    (∃ t r, exec (.get 16) idle = .next t ∧ t.responses = r :: idle.responses) ∧
    (∃ t r, exec .drain running = .next t ∧ t.responses = r :: running.responses) ∧
    (∃ t r, exec .resync idle = .next t ∧ t.responses = r :: idle.responses) ∧
    (∃ t r, exec .teardown idle = .next t ∧ t.responses = r :: idle.responses) ∧
    (∃ t r, exec (.rdcnt 3) idle = .next t ∧ t.responses = r :: idle.responses) ∧
    (∃ t r, exec .rdstat idle = .next t ∧ t.responses = r :: idle.responses) ∧
    (∃ t, step drainingEmpty = .next t) := by
  refine ⟨?_, ?_, ?_, ?_, ?_, ?_, ?_, ?_, ?_, ⟨_, rfl⟩⟩ <;> exact ⟨_, _, rfl, rfl⟩

theorem witness_StepRunsTheDecodedInstruction :
    (∃ s : State, s.turns = [.producer] ∧ s.producerIn = [0x10B5] ∧
      decode .producer 0x10B5 = .instr (.push 0xB5)) ∧
    (∃ s : State, s.turns = [.host] ∧ s.cpPending = false ∧ s.hostIn = [0x2000] ∧
      decode .control 0x2000 = .instr .pop) :=
  ⟨⟨{ idle with turns := [.producer], producerIn := [0x10B5] }, rfl, rfl, by decide⟩,
    ⟨{ idle with turns := [.host], hostIn := [0x2000] }, rfl, rfl, rfl, by decide⟩⟩

theorem witness_ControlPortAcceptsOnlyWhileNothingIsPending :
    (∃ s : State, s.turns = [.host] ∧ s.cpPending = true) ∧
    (∃ s : State, s.turns = [.host] ∧ s.cpPending = false ∧ s.hostIn = [0xFFFF]) ∧
    (∃ s : State, s.turns = [.producer] ∧ s.producerIn = [0x0000]) :=
  ⟨⟨{ draining with turns := [.host] }, rfl, rfl⟩,
    ⟨{ idle with turns := [.host], hostIn := [0xFFFF] }, rfl, rfl, rfl⟩,
    ⟨{ draining with turns := [.producer], producerIn := [0x0000] }, rfl, rfl⟩⟩

/-- A step of each agent with something to do, of none listed, and of agents with nothing to do. -/
theorem witness_AStepTakesAtMostOneEnabledTransition :
    (∃ t, step { idle with turns := [.producer], producerIn := [0x10B5] } = .next t) ∧
    (∃ t, step { idle with turns := [.host], hostIn := [0x9000] } = .next t) ∧
    (∃ t, step { draining with turns := [.pump] } = .next t) ∧
    (∃ t, step { yielding with turns := [.scheduler] } = .next t) ∧
    (∃ t, step { full with turns := [.reset] } = .next t) ∧
    (∃ t, step running = .next t) ∧ (∃ t, step yielding = .next t) ∧ (∃ t, step idle = .next t) ∧
    (∃ t, step { draining with turns := [.host], hostIn := [0x9000] } = .next t) := by
  refine ⟨?_, ?_, ?_, ?_, ?_, ?_, ?_, ?_, ?_⟩ <;> exact ⟨_, rfl⟩

theorem witness_EveryEnabledTransitionIsSomeStep :
    (Transition.producer 0).enabled draining = true ∧ (Transition.control 0x9000).enabled idle = true ∧
    Transition.enabled draining .pump = true ∧ Transition.enabled running .pump = true ∧
    Transition.enabled yielding .yieldDone = true ∧ Transition.enabled stopped .reset = true := by decide

theorem witness_ResetLeavesTheGivenValues : Config.usb.drainMode = .nb ∧ Config.uart.drainMode = .coop := by decide

theorem witness_ResetTransitionSetsEveryElement :
    idle.cfg.drainMode = .nb ∧ running.cfg.drainMode = .coop ∧ idle.cfg.wf = true ∧
    (∃ u, exec (.push 0xB5) draining = .next u) := ⟨rfl, rfl, rfl, ⟨_, rfl⟩⟩

theorem witness_ResetStateMeetsTheCoreInvariant : Config.usb.wf = true ∧ Config.uart.wf = true ∧
    Config.wf ⟨1, .nb, .literal, 20⟩ = true ∧ Config.wf ⟨65535, .coop, .resync, 20⟩ = true := by decide

theorem witness_EveryStepKeepsTheCoreInvariant : (draining.Inv ∧ ∃ t, step draining = .next t) ∧
    (running.Inv ∧ ∃ t, step running = .next t) := ⟨⟨draining_inv, _, rfl⟩, ⟨running_inv, _, rfl⟩⟩

theorem witness_LevelNeverExceedsCapacity :
    (full.RingOk ∧ ∃ t, exec (.push 0x14) full = .next t) ∧ (one.RingOk ∧ ∃ t, exec (.push 0) one = .next t) ∧
    (full.RingOk ∧ ∃ b t, full.popInternal = some (b, t)) ∧ (draining.RingOk ∧ ∃ t, fire .pump draining = .next t) :=
  ⟨⟨full_inv.ring, _, rfl⟩, ⟨one_inv.ring, _, rfl⟩, ⟨full_inv.ring, _, _, rfl⟩, ⟨draining_inv.ring, _, rfl⟩⟩

/-- The accumulator's invariant is met in each stage. -/
theorem witness_AccumulatorAgreesWithStage : accOk .awaitSync 0 ∧ accOk .readChan 0 ∧ accOk .readHigh 0x00FF0000 ∧
    accOk .readLow 0x00FFFF00 ∧ ∃ t, fire (.control 0x30B5) (at_ nb4 .readHigh 0x00FF0000) = .next t :=
  ⟨rfl, rfl, ⟨by decide, by decide⟩, ⟨by decide, by decide⟩, _, rfl⟩

theorem witness_PushStoresTheByteOrCountsTheOverflow :
    full.level = full.cfg.cap ∧ idle.level ≠ idle.cfg.cap ∧ (State.level { full with rp := 1 }) ≠ full.cfg.cap := by
  decide

theorem witness_PopAnswersByPumpStateAndLevel :
    stopped.pstate = .stopped ∧ running.pstate = .running ∧ yielding.pstate = .yielding ∧
    (idle.pstate = .idle ∧ idle.level = 0) ∧ (one.pstate = .idle ∧ one.level ≠ 0) ∧
    (full.pstate = .idle ∧ full.level ≠ 0) ∧ (draining.Inv ∧ draining.pstate = .draining) :=
  ⟨rfl, rfl, rfl, ⟨rfl, rfl⟩, ⟨rfl, by decide⟩, ⟨rfl, by decide⟩, ⟨draining_inv, rfl⟩⟩

theorem witness_StepCommandFeedsItsByteAndReportsTheEvent :
    stopped.pstate = .stopped ∧ running.pstate = .running ∧ yielding.pstate = .yielding ∧ idle.pstate = .idle ∧
    (at_ nb4 .readLow 0x00100400).pstate = .idle ∧ (at_ nb4r .readChan 0).pstate = .idle := by decide

theorem witness_GetReadsTheChannelSignExtended :
    (0 : Byte).toNat < 16 ∧ (15 : Byte).toNat < 16 ∧ 16 ≤ (16 : Byte).toNat ∧ 16 ≤ (255 : Byte).toNat := by decide

theorem witness_DrainStartsANonBlockingDrain :
    running.cfg.drainMode = .coop ∧ (stopped.cfg.drainMode = .nb ∧ stopped.pstate = .stopped) ∧
    (idle.cfg.drainMode = .nb ∧ idle.pstate = .idle ∧ idle.level = 0) ∧
    (draining.RingOk ∧ draining.pstate = .draining ∧ draining.level ≠ draining.cfg.cap) :=
  ⟨rfl, ⟨rfl, rfl⟩, ⟨rfl, rfl, rfl⟩, draining_inv.ring, rfl, by decide⟩

theorem witness_ResyncReturnsTheDecoderToAwaitingSync :
    stopped.pstate = .stopped ∧ draining.pstate ≠ .stopped ∧ yielding.pstate ≠ .stopped := by decide

theorem witness_TeardownStopsTheStreamUntilReset :
    draining.cpPending = true ∧ (Instr.drain = Instr.drain ∧ idle.cfg.drainMode = .nb) ∧
    idle.level ≠ idle.cfg.cap ∧ (15 : Byte).toNat < 16 ∧ (2 : Byte).toNat < 3 ∧
    (Transition.producer 0x1000 ≠ .reset ∧ stopped.pstate = .stopped ∧
      ∃ v, fire (.producer 0x1000) stopped = .next v) :=
  ⟨rfl, ⟨rfl, rfl⟩, by decide, by decide, by decide, ⟨by decide, rfl, _, rfl⟩⟩

theorem witness_RdcntReadsTheSelectedCounter : (0 : Byte) = 0 ∧ (1 : Byte) = 1 ∧ (2 : Byte) = 2 ∧
    3 ≤ (3 : Byte).toNat ∧ 3 ≤ (255 : Byte).toNat := by decide

theorem witness_RdstatPacksTheStatusFields : idle.level ≤ 65535 ∧ full.level ≤ 65535 ∧
    State.level { State.resetOf ⟨65535, .nb, .literal, 20⟩ with wp := 65535 } ≤ 65535 := by decide

theorem witness_ReadCommandsOnlyAnswer : (∃ t, exec (.get 16) one = .next t) ∧ (∃ t, exec (.rdcnt 0) one = .next t) ∧
    (∃ t, exec .rdstat one = .next t) := ⟨⟨_, rfl⟩, ⟨_, rfl⟩, ⟨_, rfl⟩⟩

theorem witness_PushChangesOnlyItsSlotPointerAndCount :
    ((∃ t, exec (.push 1) full = .next t) ∧ full.level = full.cfg.cap) ∧
    ((∃ t, exec (.push 1) one = .next t) ∧ one.level ≠ one.cfg.cap ∧ one.pushSlot = 1 ∧ 0 ≠ one.pushSlot) :=
  ⟨⟨⟨_, rfl⟩, rfl⟩, ⟨⟨_, rfl⟩, by decide, by decide, by decide⟩⟩

theorem witness_ConsumerCommandsChangeOnlyWhatTheirRuleNames :
    (∃ t, exec .pop one = .next t) ∧ (∃ t, exec (.step 0xB5) one = .next t) ∧ (∃ t, exec .resync one = .next t) ∧
    (∃ t, exec .drain one = .next t) ∧ (∃ t, exec .teardown one = .next t) :=
  ⟨⟨_, rfl⟩, ⟨_, rfl⟩, ⟨_, rfl⟩, ⟨_, rfl⟩, ⟨_, rfl⟩⟩

theorem witness_EachSideWritesOnlyItsOwnElements :
    (∃ t, fire (.producer 0x1000) one = .next t) ∧ (∃ t, fire (.control 0x2000) one = .next t) ∧
    (∃ t, fire .pump draining = .next t) ∧ (∃ t, fire .yieldDone yielding = .next t) ∧
    (one.cfg = full.cfg ∧ (∃ t, fire .reset one = .next t) ∧ ∃ t, fire .reset full = .next t) :=
  ⟨⟨_, rfl⟩, ⟨_, rfl⟩, ⟨_, rfl⟩, ⟨_, rfl⟩, ⟨rfl, ⟨_, rfl⟩, ⟨_, rfl⟩⟩⟩

theorem witness_RingBufferIsABoundedFifoQueue :
    (one.Inv ∧ one.queue.length < one.cfg.cap ∧ one.pstate = .idle ∧ one.queue = [0x41]) ∧
    (full.Inv ∧ full.queue.length = full.cfg.cap) ∧ (idle.Inv ∧ idle.pstate = .idle ∧ idle.queue = []) ∧
    (draining.Inv ∧ draining.pstate = .draining ∧ draining.queue = [0x41]) :=
  ⟨⟨one_inv, by decide, rfl, by decide⟩, ⟨full_inv, by decide⟩, ⟨idle_inv, rfl, by decide⟩,
    ⟨draining_inv, rfl, by decide⟩⟩

theorem witness_BufferHoldsExactlyItsCapacity : idle.Inv ∧ idle.level = 0 ∧
    [(0x10 : Byte), 0x11, 0x12, 0x13].length = idle.cfg.cap := ⟨idle_inv, rfl, rfl⟩

theorem witness_AwaitingSyncScansForTheSyncByte : (0xB5 : Byte) = 0xB5 ∧ (0xB4 : Byte) ≠ 0xB5 ∧
    idle.stage = .awaitSync := by decide

theorem witness_FrameBytesAreStoredInTheirFields : ¬ (SyncPolicy.literal = .resync ∧ (0xB5 : Byte) = 0xB5) ∧
    ¬ (SyncPolicy.resync = .resync ∧ (0x00 : Byte) = 0xB5) := by decide

theorem witness_FourthByteCompletesTheFrame :
    ((0x000F83FF : Word32).extractLsb' 16 8).toNat ≤ 15 ∧ 16 ≤ ((0x00100000 : Word32).extractLsb' 16 8).toNat ∧
    ¬ (SyncPolicy.literal = .resync ∧ (0xB5 : Byte) = 0xB5) := by decide

theorem witness_SyncByteInsideAFrameFollowsThePolicy :
    Stage.readChan ≠ .awaitSync ∧
    ((at_ nb4r .readLow 0).cfg.syncPolicy = .resync ∧ (at_ nb4r .readLow 0).stage ≠ .awaitSync) ∧
    ((at_ nb4 .readChan 0).cfg.syncPolicy = .literal ∧ (at_ nb4 .readChan 0).stage = .readChan) ∧
    ((State.resetOf nb4r).cfg.syncPolicy = .resync ∧ (State.resetOf nb4r).stage = .awaitSync ∧
      .emit 3 0 ∈ (State.resetOf nb4r).feedEvents [0xB5, 0x03, 0x04, 0x00]) := by decide

theorem witness_EventsWriteOnlyTheirElement : (15 : Byte).toNat < 16 ∧
    decodeStep idle.cfg.syncPolicy idle.stage idle.acc 0x00 = (.awaitSync, 0, .discard) ∧
    (Transition.pump ≠ .reset ∧ ∃ t, fire .pump draining = .next t ∧ t.decoderView ≠ draining.decoderView) :=
  ⟨by decide, by decide, by decide, _, rfl, by decide⟩

theorem witness_WellFormedFrameWritesItsChannelAlone :
    idle.stage = .awaitSync ∧ (15 : Byte).toNat < 16 ∧ 16 ≤ (16 : Byte).toNat ∧
    (nb4r.syncPolicy = .resync ∧ (0x0F : Byte) ≠ 0xB5 ∧ (0x10 : Byte) ≠ 0xB5 ∧ (0xFF : Byte) ≠ 0xB5) := by decide

/-- SX-6 in small: a stream drained by two DRAINs, with a GET between, and an illegal word among the PUSHes. -/
def interleaved : State := { idle with
  producerIn := [encode (.push 0xB5), 0x1100, encode (.push 0x03)]
  hostIn := [0x5000, 0x4003, 0x5000]
  turns := [.producer, .host, .pump, .pump, .producer, .host, .producer, .host, .pump, .pump] }

/-- The bytes reach the decoder whole: the end of the run has nothing buffered and nothing to push. -/
theorem witness_DecodingDoesNotDependOnTheInterleaving :
    interleaved.Inv ∧ Agent.reset ∉ interleaved.turns ∧
    (∀ w ∈ interleaved.hostIn, decode .control w ≠ .instr .pop ∧ (∀ b, decode .control w ≠ .instr (.step b)) ∧
      decode .control w ≠ .instr .resync ∧ decode .control w ≠ .instr .teardown) ∧
    ∃ t rs, run 10 interleaved = .next t ∧ t.responses = rs ++ interleaved.responses ∧
      (∀ r ∈ rs, r.port = .producer → rspStatus r.word ≠ 0x02) ∧ t.queue = [] ∧ t.producerIn = [] := by
  refine ⟨⟨⟨rfl, by decide, by decide, by decide⟩, ⟨rfl, by decide, by decide⟩, rfl, .inl rfl, by decide⟩, by decide,
    ?_, _, _, rfl, (List.append_nil _).symm, by decide, by decide, by decide⟩
  intro w hw
  have key : decode .control w = .instr .drain ∨ decode .control w = .instr (.get 3) := by
    have hw : w = 0x5000 ∨ w = 0x4003 ∨ w = 0x5000 := by simpa [interleaved] using hw
    rcases hw with rfl | rfl | rfl
    exacts [.inl rfl, .inr rfl, .inl rfl]
  rcases key with h | h <;> simp [h]

theorem witness_NoiseWithoutSyncDoesNotChangeTheFrame :
    (idle.stage = .awaitSync ∧ idle.acc = 0 ∧ idle.cfg.syncPolicy = .literal ∧
      ∀ n ∈ [(0x00 : Byte), 0x7F, 0xFF], n ≠ 0xB5) ∧
    ((State.resetOf nb4r).cfg.syncPolicy = .resync ∧ ((0x0F : Byte).toNat < 16 ∧ (0x0F : Byte) ≠ 0xB5) ∧
      (16 ≤ (0x10 : Byte).toNat ∧ (0x10 : Byte) ≠ 0xB5) ∧ (0x04 : Byte) ≠ 0xB5 ∧ (0x00 : Byte) ≠ 0xB5) := by decide

/-- Both a STEP and a pump step change a channel so. -/
theorem witness_ChannelsChangeOnlyWhenAFrameCompletes :
    (∃ t, fire (.control 0x3000) (at_ nb4 .readLow 0x00030000) = .next t ∧ Transition.control 0x3000 ≠ .reset ∧
      t.ch ≠ (at_ nb4 .readLow 0x00030000).ch) ∧
    (∃ t, fire .pump { draining with stage := .readLow, acc := 0x00030000 } = .next t ∧ Transition.pump ≠ .reset ∧
      t.ch ≠ draining.ch) := ⟨⟨_, rfl, by decide, by decide⟩, ⟨_, rfl, by decide, by decide⟩⟩

theorem witness_EncodedFrameDecodesBackToItsValue :
    ((-1024 : Int) ≤ -1024 ∧ (64511 : Int) ≤ 64511 ∧ (32767 : Int) ≤ 32767 ∧ (15 : Byte).toNat < 16) ∧
    idle.stage = .awaitSync ∧ (∀ b ∈ (encodeFrame 15 32767).tail, b ≠ 0xB5) := by decide

theorem witness_GetReturnsTheLatestEmittedValue : (15 : Byte).toNat < 16 := by decide

theorem witness_DrainingPumpFeedsOneByteOrCompletes :
    (draining.pstate = .draining ∧ draining.level ≠ 0) ∧ (drainingEmpty.pstate = .draining ∧ drainingEmpty.level = 0) := by
  decide

theorem witness_RunningPumpFeedsOneByteOrYields :
    (running.pstate = .running ∧ running.level = 0) ∧
    (State.pstate { running with mem := [(0, 0x42)], wp := 1 } = .running ∧
      State.level { running with mem := [(0, 0x42)], wp := 1 } ≠ 0) := by decide

theorem witness_YieldDoneOnlyResumesThePump : yielding.pstate = .yielding := by decide

theorem witness_UndisturbedDrainFeedsTheWholeQueueInOrder :
    ∃ s : State, s.Inv ∧ s.cfg.drainMode = .nb ∧ s.pstate = .idle ∧ s.turns = [.host] ∧ s.hostIn = [0x5000] ∧
      1 ≤ 1 ∧ 1 ≤ s.level + 1 :=
  ⟨{ full with turns := [.host], hostIn := [0x5000] },
    ⟨⟨rfl, by decide, by decide, by decide⟩, ⟨rfl, by decide, by decide⟩, rfl, .inl rfl, by decide⟩,
    rfl, rfl, rfl, rfl, by decide, by decide⟩

theorem witness_DrainFedBeforeEveryPumpStepNeverCompletes :
    ∃ (s : State) (bs : List Byte), s.Inv ∧ s.pstate = .draining ∧ bs.length = 2 ∧
      s.producerIn = bs.map (fun b => encode (.push b)) ∧
      s.turns = (List.replicate 2 [Agent.producer, Agent.pump]).flatten :=
  ⟨{ drainingEmpty with
      producerIn := [encode (.push 1), encode (.push 2)], turns := [.producer, .pump, .producer, .pump] }, [1, 2],
    ⟨⟨rfl, by decide, by decide, by decide⟩, ⟨rfl, by decide, by decide⟩, rfl, .inr (.inl rfl), by decide⟩,
    rfl, rfl, rfl, rfl⟩

/-- DV-P5: a COOP instance with nothing pushed, its pump and the scheduler taking turns for ever. -/
def cycling : Execution where
  state n := if n % 2 = 0 then running else yielding
  taken n := if n % 2 = 0 then some .pump else some .yieldDone
  steps n := by
    rcases Nat.mod_two_eq_zero_or_one n with h | h
    · have h' : (n + 1) % 2 ≠ 0 := by omega
      simp only [h, if_true, if_neg h']
      exact ⟨rfl, rfl⟩
    · have h' : (n + 1) % 2 = 0 := by omega
      have h1 : n % 2 ≠ 0 := by omega
      simp only [if_neg h1, h', if_true]
      exact ⟨rfl, rfl⟩

theorem witness_FairYieldingPumpLeavesYielding : cycling.FairTo .yieldDone ∧ (cycling.state 1).pstate = .yielding := by
  refine ⟨fun n _ => ⟨2 * n + 1, by omega, ?_⟩, rfl⟩
  have h : (2 * n + 1) % 2 ≠ 0 := by omega
  simp only [cycling, if_neg h]

/-- DV-N1: an empty DRAIN completes at the first pump step, and nothing happens after. -/
def completing : Execution where
  state n := if n = 0 then drainingEmpty else { idle with responses := [⟨.control, 0⟩] }
  taken n := if n = 0 then some .pump else none
  steps n := by
    cases n with
    | zero => exact ⟨rfl, rfl⟩
    | succ n => rfl

theorem witness_FairDrainEndsOnceTheProducerStops :
    completing.FairTo .pump ∧ (completing.state 0).Inv ∧ (completing.state 0).cpPending = true ∧
      ∀ m, 0 ≤ m → ∀ w, completing.taken m ≠ some (.producer w) := by
  refine ⟨fun n h => ?_, drainingEmpty_inv, rfl, fun m _ w => ?_⟩
  · have := h (n + 1) (by omega)
    cases this
  · cases m <;> simp [completing]

theorem witness_OnlyResetLeavesStopped : stopped.pstate = .stopped ∧ ∃ t, step stopped = .next t := ⟨rfl, _, rfl⟩

theorem witness_CoopPumpCyclesUntilTeardownOrReset :
    (running.cfg.drainMode = .coop ∧ running.pstate = .running ∧ ∃ t, step running = .next t) ∧
    (yielding.cfg.drainMode = .coop ∧ yielding.pstate = .yielding ∧
      ∃ t, step { yielding with turns := [.host], hostIn := [0x7000] } = .next t) :=
  ⟨⟨rfl, rfl, _, rfl⟩, ⟨rfl, rfl, _, rfl⟩⟩

theorem witness_StatusesAreReportedInTheirPriority :
    decode .control 0x5001 = .illegal .nonzeroArg ∧ running.cfg.drainMode = .coop ∧
    (stopped.pstate = .stopped ∧ stopped.cfg.drainMode = .nb) ∧ yielding.pstate = .yielding ∧
    (idle.pstate = .idle ∧ idle.level = 0) ∧ full.level = full.cfg.cap ∧ 16 ≤ (16 : Byte).toNat ∧
    3 ≤ (3 : Byte).toNat ∧ (∃ t r, exec .teardown stopped = .next t ∧ t.responses = r :: stopped.responses) ∧
    idle.level ≠ idle.cfg.cap ∧ (one.pstate = .idle ∧ one.level ≠ 0) ∧ (15 : Byte).toNat < 16 ∧ (2 : Byte).toNat < 3 ∧
    yielding.pstate ≠ .stopped ∧ (idle.cfg.drainMode = .nb ∧ idle.pstate = .idle) ∧
    (drainingEmpty.pstate = .draining ∧ drainingEmpty.level = 0) ∧
    (¬ (SyncPolicy.literal = .resync ∧ (0xB5 : Byte) = 0xB5) ∧ ((0x000F0000 : Word32).extractLsb' 16 8).toNat ≤ 15 ∧
      16 ≤ ((0x00100000 : Word32).extractLsb' 16 8).toNat) ∧ Stage.readHigh ≠ .readLow :=
  ⟨by decide, rfl, ⟨rfl, rfl⟩, rfl, ⟨rfl, rfl⟩, rfl, by decide, by decide, ⟨_, _, rfl, rfl⟩, by decide,
    ⟨rfl, by decide⟩, by decide, by decide, by decide, ⟨rfl, rfl⟩, ⟨rfl, rfl⟩, ⟨by decide, by decide, by decide⟩,
    by decide⟩

theorem witness_ARefusedCommandChangesNothing :
    (∃ t r, exec (.push 0x14) full = .next t ∧ t.responses = r :: full.responses ∧ rspStatus r.word ≠ 0x00) ∧
    (∃ t r, exec .pop idle = .next t ∧ t.responses = r :: idle.responses ∧ rspStatus r.word ≠ 0x00) :=
  ⟨⟨_, _, rfl, rfl, by decide⟩, ⟨_, _, rfl, rfl, by decide⟩⟩

theorem witness_PseudoInstructionsExpandToPushWords :
    ((255 : Nat) ≤ 255 ∧ (-1024 : Int) ≤ -1024 ∧ (64511 : Int) ≤ 64511) ∧
    (255 < (256 : Nat) ∧ (-1025 : Int) < -1024 ∧ (64511 : Int) < 64512) ∧ (∀ b ∈ [0, 255], b ≤ 255) := by decide

theorem witness_AssembledCommandsAreLegalOnTheirPort :
    ⟨['P', 'U', 'S', 'H'], 1, true⟩ ∈ mnemonics ∧
    (AsmLine.command ⟨['P', 'U', 'S', 'H'], 1, true⟩ (some 255)).assemble = some [(.producer, 0x10FF)] ∧
    ⟨['P', 'O', 'P'], 2, false⟩ ∈ mnemonics ∧
    (AsmLine.command ⟨['P', 'O', 'P'], 2, false⟩ none).assemble = some [(.control, 0x2000)] := by decide

theorem witness_InstancesDoNotInterfere :
    ∃ z z', System.reset.step .usb = .next z ∧ z.step .uart = .next z' := ⟨_, _, rfl, rfl⟩

end Sys2Proof.Machine
end

section
/-! `wrap16` as an operation on integers (spec/00_scope.md R10). -/

namespace Sys2Proof.Machine

/-- Read as a signed number, `wrap16 n` is the balanced remainder of `n` modulo 2^16. -/
@[simp] theorem toInt_wrap16 (n : Int) : (wrap16 n).toInt = n.bmod 65536 := BitVec.toInt_ofInt ..

/-- The balanced remainder modulo 2^16 by R10's formula: shift up by 2^15, reduce, shift back. -/
theorem bmod_eq_shifted_emod (n : Int) : n.bmod 65536 = (n % 65536 + 32768) % 65536 - 32768 := by
  rw [Int.bmod_def]
  split <;> omega

/-- Settles O59: the range and the congruence both follow from R10's formula for the balanced remainder. -/
theorem wrapIsTheCongruentSixteenBitValue : Obligations.WrapIsTheCongruentSixteenBitValue := by
  intro n
  have formula : (wrap16 n).toInt = (n % 65536 + 32768) % 65536 - 32768 := by
    rw [toInt_wrap16, bmod_eq_shifted_emod]
  refine ⟨formula, ?_, ?_, ?_⟩ <;> omega

end Sys2Proof.Machine
end

section
/-! What a decoded word says of the port and of the word itself (spec/30_encoding.md R54 to R58). -/

namespace Sys2Proof

theorem noOperand_eq_instr {arg : Byte} {i j : Instr} (h : noOperand arg i = .instr j) : arg = 0 ∧ j = i := by
  unfold noOperand at h
  split at h <;> cases h
  exact ⟨‹_›, rfl⟩

/-- A word that decodes to an instruction came on that instruction's port and has that instruction's fields. -/
theorem fields_of_decode {p : Port} {w : Word16} {i : Instr} (h : decode p w = .instr i) :
    i.port = p ∧ opField w = i.opcode ∧ rsvField w = 0 ∧ argField w = i.arg := by
  unfold decode at h
  split at h
  · cases h
  have hr : rsvField w = 0 := not_not.mp ‹_›
  cases p with
  | producer =>
    split at h <;> cases h
    exact ⟨rfl, ‹_›, hr, rfl⟩
  | control =>
    -- a command without an operand: `noOperand` has checked that ARG is 0
    have bare : ∀ j : Instr, j.port = .control → opField w = j.opcode → j.arg = 0 →
        noOperand (argField w) j = .instr i →
        i.port = .control ∧ opField w = i.opcode ∧ rsvField w = 0 ∧ argField w = i.arg := by
      intro j hp ho ha hj
      obtain ⟨harg, rfl⟩ := noOperand_eq_instr hj
      exact ⟨hp, ho, hr, harg.trans ha.symm⟩
    dsimp only at h
    split_ifs at h with h1 h2 h3 h4 h5 h6 h7 h8 h9
    · exact bare .pop rfl h2 rfl h
    · cases h; exact ⟨rfl, h3, hr, rfl⟩
    · cases h; exact ⟨rfl, h4, hr, rfl⟩
    · exact bare .drain rfl h5 rfl h
    · exact bare .resync rfl h6 rfl h
    · exact bare .teardown rfl h7 rfl h
    · cases h; exact ⟨rfl, h8, hr, rfl⟩
    · exact bare .rdstat rfl h9 rfl h

theorem port_of_decode {p : Port} {w : Word16} {i : Instr} (h : decode p w = .instr i) : i.port = p :=
  (fields_of_decode h).1

/-- A word that decodes to an instruction is that instruction's encoding. -/
theorem eq_encode_of_decode {p : Port} {w : Word16} {i : Instr} (h : decode p w = .instr i) : w = encode i := by
  obtain ⟨-, hop, hrsv, harg⟩ := fields_of_decode h
  rw [word_eq_fields w, hop, hrsv, harg, encode]

/-- PUSH is the one instruction of the producer port (R52). -/
theorem push_of_decode_producer {w : Word16} {i : Instr} (h : decode .producer w = .instr i) : ∃ b, i = .push b := by
  have hp := port_of_decode h
  cases i with
  | push b => exact ⟨b, rfl⟩
  | _ => cases hp

end Sys2Proof
end

section
/-! What one transition of the core can do, an effect at a time (spec/20_memory.md R42, R43). -/

namespace Sys2Proof.Machine

/-- `Fired s l t`: the transition `l` can take `s` to `t`, with one constructor per effect. -/
inductive Fired (s : State) : Transition → State → Prop
  | pushIllegal (w : Word16) : Fired s (.producer w) (s.respond .producer .illegal 0)
  | pushFull (w : Word16) (hl : s.level = s.cfg.cap) :
      Fired s (.producer w) (s.countOverflow.respond .producer .full 0)
  | pushStored (w : Word16) (b : Byte) (hl : s.level ≠ s.cfg.cap) :
      Fired s (.producer w) ((s.storeByte b).respond .producer .ok 0)
  | answered (w : Word16) (st : Status) (d : Word32) : Fired s (.control w) (s.respond .control st d)
  | popped (w : Word16) (hs : s.pstate = .idle ∨ s.pstate = .draining) (hl : s.level ≠ 0) :
      Fired s (.control w) (s.dropOldest.respond .control .ok (zext32 (s.memRead s.popSlot)))
  | stepped (w : Word16) (b : Byte) (hs : s.pstate = .idle ∨ s.pstate = .draining) :
      Fired s (.control w) ((s.feed b).respond .control .ok (s.feedEvent b).word)
  | drainStarted (w : Word16) (hm : s.cfg.drainMode = .nb) (hs : s.pstate ≠ .stopped) :
      Fired s (.control w) { s with pstate := .draining, drainN := 0, cpPending := true }
  | resynced (w : Word16) (hs : s.pstate ≠ .stopped) :
      Fired s (.control w) ((s.setDecoder .awaitSync 0).respond .control .ok 0)
  | tornDown (w : Word16) :
      Fired s (.control w) (((s.setPump .stopped).setDecoder .awaitSync 0).respond .control .ok 0)
  | drainDone (hs : s.pstate = .draining) (hl : s.level = 0) :
      Fired s .pump (({ s with pstate := .idle, cpPending := false } : State).respond .control .ok s.drainN)
  | drainFed (hs : s.pstate = .draining) (hl : s.level ≠ 0) :
      Fired s .pump { s.dropOldest.feed (s.memRead s.popSlot) with drainN := inc32 s.drainN }
  | taskYielded (hs : s.pstate = .running) (hl : s.level = 0) : Fired s .pump (s.setPump .yielding)
  | taskFed (hs : s.pstate = .running) (hl : s.level ≠ 0) :
      Fired s .pump (s.dropOldest.feed (s.memRead s.popSlot))
  | pumpPassed (he : s.pumpEnabled = false) : Fired s .pump s
  | taskResumed (hs : s.pstate = .yielding) : Fired s .yieldDone (s.setPump .running)
  | schedulerPassed (hs : s.pstate ≠ .yielding) : Fired s .yieldDone s
  | reset : Fired s .reset s.resetElements

variable {s t : State} {l : Transition}

theorem fired_of_issue_producer {w : Word16} (h : issue .producer w s = .next t) : Fired s (.producer w) t := by
  rcases issue_cases h with ⟨i, hd, he⟩ | ⟨why, -, rfl⟩
  · obtain ⟨b, rfl⟩ := push_of_decode_producer hd
    rcases execPush_cases he with ⟨hl, rfl⟩ | ⟨hl, rfl⟩
    · exact .pushFull w hl
    · exact .pushStored w b hl
  · exact .pushIllegal w

theorem fired_of_issue_control {w : Word16} (h : issue .control w s = .next t) : Fired s (.control w) t := by
  rcases issue_cases h with ⟨i, hd, he⟩ | ⟨why, -, rfl⟩
  · cases i with
    | push b => cases port_of_decode hd
    | pop =>
      rcases execPop_cases he with ⟨-, rfl⟩ | ⟨-, rfl⟩ | ⟨-, -, rfl⟩ | ⟨hs, hl, rfl⟩
      · exact .answered w _ _
      · exact .answered w _ _
      · exact .answered w _ _
      · exact .popped w hs hl
    | step b =>
      rcases execStep_cases he with ⟨-, rfl⟩ | ⟨-, rfl⟩ | ⟨hs, rfl⟩
      · exact .answered w _ _
      · exact .answered w _ _
      · exact .stepped w b hs
    | get n => rcases execGet_cases he with ⟨-, rfl⟩ | ⟨-, rfl⟩ <;> exact .answered w _ _
    | drain =>
      rcases execDrain_cases he with ⟨-, rfl⟩ | ⟨-, -, rfl⟩ | ⟨hm, hs, rfl⟩
      · exact .answered w _ _
      · exact .answered w _ _
      · exact .drainStarted w hm hs
    | resync =>
      rcases execResync_cases he with ⟨-, rfl⟩ | ⟨hs, rfl⟩
      · exact .answered w _ _
      · exact .resynced w hs
    | teardown => exact execTeardown_cases he ▸ .tornDown w
    | rdcnt k => rcases execRdcnt_cases he with ⟨n, -, rfl⟩ | ⟨-, rfl⟩ <;> exact .answered w _ _
    | rdstat => exact execRdstat_cases he ▸ .answered w _ _
  · exact .answered w _ _

theorem fired_pumpStep (s : State) : Fired s .pump s.pumpStep := by
  rcases s.pumpStep_cases with ⟨hs, hl, he⟩ | ⟨hs, hl, he⟩ | ⟨hs, hl, he⟩ | ⟨hs, hl, he⟩ |
    ⟨hp, he⟩ <;> rw [he]
  · exact .drainDone hs hl
  · exact .drainFed hs hl
  · exact .taskYielded hs hl
  · exact .taskFed hs hl
  · exact .pumpPassed hp

theorem fired_yieldDone (s : State) : Fired s .yieldDone s.yieldDone := by
  unfold State.yieldDone
  split
  · exact .taskResumed ‹_›
  · exact .schedulerPassed ‹_›

/-- Every transition has one of the effects of `Fired`. -/
theorem fired_of_fire (h : fire l s = .next t) : Fired s l t := by
  cases l with
  | producer w => exact fired_of_issue_producer h
  | control w => exact fired_of_issue_control h
  | pump => cases h; exact fired_pumpStep s
  | yieldDone => cases h; exact fired_yieldDone s
  | reset => cases h; exact .reset

theorem Transition.enabled_control_iff {w : Word16} :
    Transition.enabled s (.control w) = true ↔ s.cpPending = false := by
  simp [Transition.enabled]

theorem Transition.enabled_yieldDone_iff : Transition.enabled s .yieldDone = true ↔ s.pstate = .yielding := by
  simp [Transition.enabled, State.yieldDoneEnabled]

/-- `s` with other words on offer and another list of turns. -/
def State.withInputs (s : State) (ps hs : List Word16) (as : List Agent) : State :=
  { s with producerIn := ps, hostIn := hs, turns := as }

/-- A step is a turn that passes, or an enabled transition of a state that differs only in its inputs; only the
reset's turn takes the transition `reset`. -/
theorem fired_of_step (h : step s = .next t) :
    t = { s with turns := s.turns.tail } ∨
    ∃ (l : Transition) (ps hs : List Word16) (as : List Agent), l.enabled (s.withInputs ps hs as) = true ∧
      (l = .reset → s.turns.head? = some .reset) ∧ Fired (s.withInputs ps hs as) l t := by
  rcases step_cases h with ⟨as, w, ws, -, -, hi⟩ | ⟨as, w, ws, -, hc, -, hi⟩ | ⟨as, ht, rfl⟩ | ⟨he, rfl⟩ |
    ⟨hy, rfl⟩ | rfl
  · exact .inr ⟨.producer w, ws, s.hostIn, as, rfl, nofun, fired_of_issue_producer hi⟩
  · exact .inr ⟨.control w, s.producerIn, ws, as, Transition.enabled_control_iff.mpr hc, nofun,
      fired_of_issue_control hi⟩
  · exact .inr ⟨.reset, s.producerIn, s.hostIn, as, rfl, fun _ => by rw [ht, List.head?_cons], .reset⟩
  · exact .inr ⟨.pump, s.producerIn, s.hostIn, s.turns.tail, he, nofun, fired_pumpStep _⟩
  · exact .inr ⟨.yieldDone, s.producerIn, s.hostIn, s.turns.tail, Transition.enabled_yieldDone_iff.mpr hy, nofun,
      .taskResumed hy⟩
  · exact .inl rfl

end Sys2Proof.Machine
end

section
/-! The state after reset (spec/10_state.md R32), and that it meets the core's invariant. -/

namespace Sys2Proof.Machine

@[simp] theorem State.level_resetOf (c : Config) : (State.resetOf c).level = 0 := by
  simp [State.level, State.resetOf]

@[simp] theorem State.channel_resetOf (c : Config) (i : Byte) : (State.resetOf c).channel i = 0 := by
  by_cases hi : i.toNat < 16
  · rw [State.channel_eq _ _ hi]
    simp [State.resetOf]
  · simp [State.channel, Vector.getD, Array.getD, hi]

/-- Settles O12: the fields as reset sets them, and what LEVEL, the queue and the channel registers read there. -/
theorem resetLeavesTheGivenValues : Obligations.ResetLeavesTheGivenValues := by
  intro c
  have hq : (State.resetOf c).queue = [] := (State.queue_eq_nil_iff _).mpr (State.level_resetOf c)
  have hp : (State.resetOf c).pstate = .afterReset c.drainMode := rfl
  exact ⟨rfl, fun _ => rfl, rfl, rfl, State.level_resetOf c, hq, rfl, rfl, State.channel_resetOf c, rfl, rfl, rfl,
    fun hm => by rw [hp, hm]; rfl, fun hm => by rw [hp, hm]; rfl, rfl, rfl⟩

theorem State.RingOk.resetOf {c : Config} (hc : c.wf = true) : (State.resetOf c).RingOk := by
  have hcap := (Config.wf_bounds hc).1
  refine ⟨hc, ?_, ?_, ?_⟩
  · change 0 < 2 * c.cap; omega
  · change 0 < 2 * c.cap; omega
  · rw [State.level_resetOf]; exact Nat.zero_le _

theorem State.StorageOk.resetOf (c : Config) : (State.resetOf c).StorageOk :=
  ⟨rfl, nofun, fun k hk => by rw [State.level_resetOf] at hk; exact absurd hk (Nat.not_lt_zero k)⟩

theorem pstateOk_afterReset (m : DrainMode) : pstateOk m (.afterReset m) := by
  cases m <;> exact .inl rfl

theorem afterReset_ne_draining (m : DrainMode) : PState.afterReset m ≠ .draining := by
  cases m <;> exact nofun

theorem State.Inv.resetOf {c : Config} (hc : c.wf = true) : (State.resetOf c).Inv where
  ring := .resetOf hc
  storage := .resetOf c
  accStage := rfl
  pstateMode := pstateOk_afterReset c.drainMode
  pendingIff := ⟨nofun, fun h => absurd h (afterReset_ne_draining c.drainMode)⟩

/-- Settles O14: one proof for every admitted configuration, the USB instance's among them. -/
theorem resetStateMeetsTheCoreInvariant : Obligations.ResetStateMeetsTheCoreInvariant :=
  ⟨fun _ => State.Inv.resetOf, State.Inv.resetOf rfl⟩

end Sys2Proof.Machine
end

section
/-! The accumulator's invariant (spec/10_state.md R22, R23). -/

namespace Sys2Proof.Machine

/-- Storing the index leaves the fields the invariant names 0. -/
theorem accOk_accWithIndex {acc : Word32} (b : Byte) (h : accOk .readChan acc) :
    accOk .readHigh (accWithIndex acc b) := by
  obtain rfl : acc = 0 := h
  constructor <;> ext i hi
  · have hb : b.getLsbD (24 + i - 16) = false := b.getLsbD_of_ge _ (by omega)
    simp [accWithIndex, zext32, hb]
  · simp [accWithIndex, zext32, hi]

/-- Storing the high byte keeps `ACC[31:24]` and `ACC[7:0]`. -/
theorem accOk_accWithHigh {acc : Word32} (b : Byte) (h : accOk .readHigh acc) :
    accOk .readLow (accWithHigh acc b) := by
  obtain ⟨htop, hlow⟩ := h
  constructor
  · rw [← htop]
    ext i hi
    interval_cases i <;> simp [accWithHigh, zext32]
  · ext i hi
    have hbit : acc.getLsbD i = false := by
      simpa [show i < 16 by omega] using congrArg (BitVec.getLsbD · i) hlow
    simp [accWithHigh, zext32, hbit, hi]

/-- A decoder step keeps the accumulator's invariant, at every stage and under either policy. -/
theorem accOk_decodeStep (pol : SyncPolicy) {stage : Stage} {acc : Word32} (b : Byte) (h : accOk stage acc) :
    accOk (decodeStep pol stage acc b).1 (decodeStep pol stage acc b).2.1 := by
  by_cases hr : pol = .resync ∧ b = syncByte
  · obtain ⟨rfl, rfl⟩ := hr
    by_cases hs : stage = .awaitSync
    · subst hs; rfl
    · rw [decodeStep_restart _ _ hs]; rfl
  · cases stage with
    | awaitSync => rw [decodeStep_awaitSync]; split <;> rfl
    | readChan => rw [decodeStep_readChan _ _ _ hr]; exact accOk_accWithIndex b h
    | readHigh => rw [decodeStep_readHigh _ _ _ hr]; exact accOk_accWithHigh b h
    | readLow => rw [decodeStep_readLow _ _ _ hr]; rfl

theorem State.accOk_feed {s : State} (b : Byte) (h : accOk s.stage s.acc) :
    accOk (s.feed b).stage (s.feed b).acc := by
  rw [s.feed_stage, s.feed_acc]
  exact accOk_decodeStep _ b h

theorem Fired.keeps_accOk {s t : State} {l : Transition} (hf : Fired s l t) (h : accOk s.stage s.acc) :
    accOk t.stage t.acc := by
  cases hf with
  | stepped w b => exact State.accOk_feed (s := s) b h
  | drainFed | taskFed => exact State.accOk_feed (s := s.dropOldest) _ h
  | resynced | tornDown | reset => rfl
  | pushIllegal | pushFull | pushStored | answered | popped | drainStarted | drainDone | taskYielded | pumpPassed
  | taskResumed | schedulerPassed => exact h

/-- Settles O17: only a fed byte and the clearing of the decoder write the accumulator. -/
theorem accumulatorAgreesWithStage : Obligations.AccumulatorAgreesWithStage :=
  ⟨fun _ => rfl, fun _ _ _ h hf => (fired_of_fire hf).keeps_accOk h⟩

end Sys2Proof.Machine
end

section
/-! What a transition does to the ring buffer: LEVEL stays at most CAP and the live slots stay written
(spec/10_state.md R17 to R20, spec/20_memory.md R46). -/

namespace Sys2Proof.Machine

/-- The ring buffer's own elements are the same in both states. -/
def State.SameRing (s t : State) : Prop := t.cfg = s.cfg ∧ t.mem = s.mem ∧ t.wp = s.wp ∧ t.rp = s.rp

theorem State.RingOk.of_sameRing {s t : State} (h : s.RingOk) (hs : s.SameRing t) : t.RingOk := by
  obtain ⟨hc, -, hw, hr⟩ := hs
  exact h.congr hc hw hr

theorem State.StorageOk.of_sameRing {s t : State} (h : s.StorageOk) (hs : s.SameRing t) : t.StorageOk := by
  obtain ⟨hc, hm, hw, hr⟩ := hs
  exact h.congr hc hm hw hr

theorem State.sameRing_feed (s : State) (b : Byte) : s.SameRing (s.feed b) :=
  ⟨s.feed_cfg b, s.feed_mem b, s.feed_wp b, s.feed_rp b⟩

variable {s t : State} {l : Transition}

/-- A transition leaves the ring buffer as it was, as a store where there was room or a pop of a byte leaves it, or as
reset leaves it. -/
theorem Fired.ring_cases (hf : Fired s l t) :
    s.SameRing t ∨
    (s.level ≠ s.cfg.cap ∧ ∃ b, (s.storeByte b).SameRing t) ∨
    (s.level ≠ 0 ∧ s.dropOldest.SameRing t) ∨
    (State.resetOf s.cfg).SameRing t := by
  cases hf with
  | pushStored w b hl => exact .inr (.inl ⟨hl, b, rfl, rfl, rfl, rfl⟩)
  | popped w hs hl => exact .inr (.inr (.inl ⟨hl, rfl, rfl, rfl, rfl⟩))
  | stepped w b hs => exact .inl (s.sameRing_feed b)
  | drainFed hs hl | taskFed hs hl => exact .inr (.inr (.inl ⟨hl, s.dropOldest.sameRing_feed _⟩))
  | reset => exact .inr (.inr (.inr ⟨rfl, rfl, rfl, rfl⟩))
  | pushIllegal | pushFull | answered | drainStarted | resynced | tornDown | drainDone | taskYielded | pumpPassed
  | taskResumed | schedulerPassed => exact .inl ⟨rfl, rfl, rfl, rfl⟩

theorem Fired.keeps_ringOk (hf : Fired s l t) (h : s.RingOk) : t.RingOk := by
  rcases hf.ring_cases with hs | ⟨hl, b, hs⟩ | ⟨hl, hs⟩ | hs
  · exact h.of_sameRing hs
  · exact (h.storeByte b hl).of_sameRing hs
  · exact (h.dropOldest hl).of_sameRing hs
  · exact (State.RingOk.resetOf h.cfgWf).of_sameRing hs

theorem Fired.keeps_storageOk (hf : Fired s l t) (hr : s.RingOk) (h : s.StorageOk) : t.StorageOk := by
  rcases hf.ring_cases with hs | ⟨hl, b, hs⟩ | ⟨hl, hs⟩ | hs
  · exact h.of_sameRing hs
  · exact (h.storeByte b hr hl).of_sameRing hs
  · exact (h.dropOldest hr hl).of_sameRing hs
  · exact (State.StorageOk.resetOf s.cfg).of_sameRing hs

theorem State.ringOk_of_popInternal {b : Byte} (h : s.RingOk) (hp : s.popInternal = some (b, t)) : t.RingOk := by
  rcases s.popInternal_cases with ⟨-, he⟩ | ⟨hl, he⟩ <;> rw [he] at hp <;> cases hp
  exact h.dropOldest hl

theorem State.ringOk_of_execPush {b : Byte} (h : s.RingOk) (hp : exec (.push b) s = .next t) : t.RingOk := by
  rcases execPush_cases hp with ⟨-, rfl⟩ | ⟨hl, rfl⟩
  · exact h.congr rfl rfl rfl
  · exact (h.storeByte b hl).congr rfl rfl rfl

/-- Settles O16: only a store where there is room and a pop of a byte move a pointer. -/
theorem levelNeverExceedsCapacity : Obligations.LevelNeverExceedsCapacity :=
  ⟨fun _ => State.RingOk.resetOf, fun _ _ _ => State.ringOk_of_execPush, fun _ _ _ => State.ringOk_of_popInternal,
    fun _ _ _ h hf => (fired_of_fire hf).keeps_ringOk h⟩

end Sys2Proof.Machine
end

section
/-! The pump's state under every transition, and the core's invariant under every step (spec/10_state.md R27, R28). -/

namespace Sys2Proof.Machine

/-! ### Which drain mode a `PSTATE` belongs to -/

theorem pstateOk_stopped (m : DrainMode) : pstateOk m .stopped := by
  cases m <;> exact .inr (.inr rfl)

theorem pstateOk_idle_or_draining {m : DrainMode} {p : PState} (hp : p = .idle ∨ p = .draining) :
    pstateOk m p ↔ m = .nb := by
  rcases hp with rfl | rfl <;> cases m <;> simp [pstateOk]

theorem pstateOk_running_or_yielding {m : DrainMode} {p : PState} (hp : p = .running ∨ p = .yielding) :
    pstateOk m p ↔ m = .coop := by
  rcases hp with rfl | rfl <;> cases m <;> simp [pstateOk]

variable {s t : State} {l : Transition}

theorem Fired.keeps_pstateOk (hf : Fired s l t) (h : pstateOk s.cfg.drainMode s.pstate) :
    pstateOk t.cfg.drainMode t.pstate := by
  cases hf with
  | drainStarted w hm => exact (pstateOk_idle_or_draining (.inr rfl)).mpr hm
  | drainDone hs => exact (pstateOk_idle_or_draining (.inl rfl)).mpr ((pstateOk_idle_or_draining (.inr hs)).mp h)
  | taskYielded hs =>
    exact (pstateOk_running_or_yielding (.inr rfl)).mpr ((pstateOk_running_or_yielding (.inl hs)).mp h)
  | taskResumed hs =>
    exact (pstateOk_running_or_yielding (.inl rfl)).mpr ((pstateOk_running_or_yielding (.inr hs)).mp h)
  | tornDown => exact pstateOk_stopped _
  | reset => exact pstateOk_afterReset _
  | stepped | drainFed | taskFed => simpa using h
  | pushIllegal | pushFull | pushStored | answered | popped | resynced | pumpPassed | schedulerPassed => exact h

/-- CP_PENDING stays true exactly in DRAINING: TEARDOWN, the one command that could break this, is accepted only while
no DRAIN is outstanding (R53). -/
theorem Fired.keeps_pendingIff (hf : Fired s l t) (he : l.enabled s = true)
    (h : s.cpPending = true ↔ s.pstate = .draining) : t.cpPending = true ↔ t.pstate = .draining := by
  cases hf with
  | drainStarted => exact ⟨fun _ => rfl, fun _ => rfl⟩
  | drainDone => exact ⟨nofun, nofun⟩
  | taskYielded hs | taskResumed hs => exact ⟨fun hp => absurd (h.mp hp) (by simp [hs]), nofun⟩
  | tornDown =>
    have hc : s.cpPending = false := Transition.enabled_control_iff.mp he
    exact ⟨fun hp => absurd hp (by simp [hc]), nofun⟩
  | reset => exact ⟨nofun, fun hp => absurd hp (afterReset_ne_draining _)⟩
  | stepped | drainFed | taskFed => simpa using h
  | pushIllegal | pushFull | pushStored | answered | popped | resynced | pumpPassed | schedulerPassed => exact h

/-- The invariant says nothing of the inputs. -/
theorem State.Inv.withInputs (h : s.Inv) (ps hs : List Word16) (as : List Agent) :
    (s.withInputs ps hs as).Inv :=
  ⟨h.ring.congr rfl rfl rfl, h.storage.congr rfl rfl rfl rfl, h.accStage, h.pstateMode, h.pendingIff⟩

/-- An enabled transition keeps the core's invariant. -/
theorem Fired.keeps_inv (hf : Fired s l t) (he : l.enabled s = true) (h : s.Inv) : t.Inv where
  ring := hf.keeps_ringOk h.ring
  storage := hf.keeps_storageOk h.ring h.storage
  accStage := hf.keeps_accOk h.accStage
  pstateMode := hf.keeps_pstateOk h.pstateMode
  pendingIff := hf.keeps_pendingIff he h.pendingIff

/-- Settles O15: a step is a passing turn or an enabled transition, and each part of the invariant is kept by both. -/
theorem everyStepKeepsTheCoreInvariant : Obligations.EveryStepKeepsTheCoreInvariant := by
  intro s t h hstep
  rcases fired_of_step hstep with rfl | ⟨l, ps, hs, as, he, -, hf⟩
  · exact h.withInputs s.producerIn s.hostIn s.turns.tail
  · exact hf.keeps_inv he (h.withInputs ps hs as)

theorem Fired.stopped_or_reset (hf : Fired s l t) (h : s.pstate = .stopped) : t.pstate = .stopped ∨ l = .reset := by
  cases hf with
  | drainStarted w hm hs => exact absurd h hs
  | drainDone hs | taskYielded hs | taskResumed hs => simp [h] at hs
  | tornDown => exact .inl rfl
  | reset => exact .inr rfl
  | stepped | drainFed | taskFed => left; simpa using h
  | pushIllegal | pushFull | pushStored | answered | popped | resynced | pumpPassed | schedulerPassed => exact .inl h

/-- Settles O52: of the effects of a transition, only reset's writes a `PSTATE` from STOPPED. -/
theorem onlyResetLeavesStopped : Obligations.OnlyResetLeavesStopped := by
  intro s t h hstep
  rcases fired_of_step hstep with rfl | ⟨l, ps, hs, as, -, hreset, hf⟩
  · exact .inl h
  · exact (hf.stopped_or_reset h).imp_right hreset

end Sys2Proof.Machine
end

section
/-! RDSTAT: the status word's fields (spec/10_state.md R31, spec/45_diagnostics.md R102). -/

namespace Sys2Proof.Machine

theorem flag32_eq_setWidth (b : Bool) : flag32 b = (BitVec.ofBool b).setWidth 32 := by cases b <;> rfl

/-- The fields of the status word, lowest bits first, with the reserved bits 3 and 15:10. -/
theorem State.statusWord_fields (s : State) :
    s.statusWord.extractLsb' 0 3 = s.pstate.code ∧ s.statusWord.extractLsb' 3 1 = 0 ∧
    s.statusWord.extractLsb' 4 2 = s.stage.code ∧ s.statusWord.getLsbD 6 = decide (s.cfg.drainMode = .coop) ∧
    s.statusWord.getLsbD 7 = decide (s.cfg.syncPolicy = .resync) ∧ s.statusWord.getLsbD 8 = s.isEmpty ∧
    s.statusWord.getLsbD 9 = s.isFull ∧ s.statusWord.extractLsb' 10 6 = 0 ∧
    s.statusWord.extractLsb' 16 16 = BitVec.ofNat 16 s.level := by
  have hlevel : BitVec.ofNat 16 s.level = (BitVec.ofNat 32 s.level).setWidth 16 :=
    (BitVec.setWidth_ofNat_of_le (by decide) s.level).symm
  simp only [State.statusWord, flag32_eq_setWidth]
  refine ⟨?_, ?_, ?_, by simp, by simp, by simp, by simp, ?_, ?_⟩
  · ext i hi; interval_cases i <;> simp
  · ext i hi; interval_cases i; simp
  · ext i hi; interval_cases i <;> simp
  · ext i hi; interval_cases i <;> simp
  · rw [hlevel]
    generalize BitVec.ofNat 32 s.level = level
    ext i hi; interval_cases i <;> simp

/-- RDSTAT is the word 0x9000 on the control port (R55, R56). -/
theorem decode_eq_rdstat_iff (p : Port) (w : Word16) :
    decode p w = .instr .rdstat ↔ p = .control ∧ w = 0x9000 := by
  constructor
  · intro h
    exact ⟨(port_of_decode h).symm, eq_encode_of_decode h⟩
  · rintro ⟨rfl, rfl⟩
    rfl

/-- Settles O26: the response carries the status word, whose fields are `statusWord_fields`. -/
theorem rdstatPacksTheStatusFields : Obligations.RdstatPacksTheStatusFields := by
  refine ⟨decode_eq_rdstat_iff, fun s hl => ⟨s.statusWord, rfl, ?_⟩⟩
  obtain ⟨hpstate, hreserved3, hstage, hmode, hpolicy, hempty, hfull, hreserved10, hlevel⟩ := s.statusWord_fields
  refine ⟨?_, hreserved3, ?_, hmode, hpolicy, hempty, hfull, hreserved10, ?_⟩
  · rw [hpstate]
    cases s.pstate <;> rfl
  · rw [hstage]
    cases s.stage <;> rfl
  · rw [hlevel, BitVec.toNat_ofNat, Nat.mod_eq_of_lt (by omega)]

end Sys2Proof.Machine
end

section
/-! Which elements each side of the ring buffer writes (spec/10_state.md R16). -/

namespace Sys2Proof.Machine

/-- Settles O28: on each side of LEVEL = CAP, from the reads of ring storage after a write. -/
theorem pushChangesOnlyItsSlotPointerAndCount : Obligations.PushChangesOnlyItsSlotPointerAndCount := by
  intro b s t h
  rcases execPush_cases h with ⟨hl, rfl⟩ | ⟨hl, rfl⟩
  · exact ⟨rfl, fun _ => ⟨rfl, fun _ => rfl⟩, fun hne => absurd hl hne⟩
  · refine ⟨rfl, fun he => absurd he hl, fun _ => ⟨rfl, fun a ha => ?_, fun a ha => ?_⟩⟩
    · subst ha
      exact Memory.read_write_same _ _ _
    · exact Memory.read_write_other _ _ _ _ ha

/-- `t` differs from `s` only in the elements of the consumer side and in the responses. -/
def State.DiffersOnConsumerSide (s t : State) : Prop :=
  t = { s with
    rp := t.rp
    stage := t.stage
    acc := t.acc
    ch := t.ch
    oorCnt := t.oorCnt
    desyncCnt := t.desyncCnt
    pstate := t.pstate
    drainN := t.drainN
    cpPending := t.cpPending
    responses := t.responses }

theorem State.DiffersOnConsumerSide.trans {s u t : State} (h : s.DiffersOnConsumerSide u)
    (h' : u.DiffersOnConsumerSide t) : s.DiffersOnConsumerSide t :=
  Eq.trans h' (by rw [h])

theorem State.differsOnConsumerSide_feed (s : State) (b : Byte) : s.DiffersOnConsumerSide (s.feed b) := by
  unfold State.feed
  cases s.feedEvent b <;> rfl

variable {s t : State} {l : Transition}

/-- The producer's transition changes no slot but `WP mod CAP`, and besides it only WP, OVF_CNT and the responses. -/
theorem Fired.producer_frame {w : Word16} (hf : Fired s (.producer w) t) :
    t = { s with mem := t.mem, wp := t.wp, ovfCnt := t.ovfCnt, responses := t.responses } ∧
    ∀ a, a ≠ s.pushSlot → Memory.read t.mem a = Memory.read s.mem a := by
  cases hf with
  | pushIllegal | pushFull => exact ⟨rfl, fun _ _ => rfl⟩
  | pushStored w b => exact ⟨rfl, fun a ha => Memory.read_write_other _ _ _ _ ha⟩

theorem Fired.consumer_frame (hf : Fired s l t) (hl : (∃ w, l = .control w) ∨ l = .pump ∨ l = .yieldDone) :
    s.DiffersOnConsumerSide t := by
  cases hf with
  | pushIllegal | pushFull | pushStored | reset => simp at hl
  | stepped w b => exact (s.differsOnConsumerSide_feed b).trans rfl
  | drainFed | taskFed =>
    have hdrop : s.DiffersOnConsumerSide s.dropOldest := rfl
    exact (hdrop.trans (s.dropOldest.differsOnConsumerSide_feed _)).trans rfl
  | answered | popped | drainStarted | resynced | tornDown | drainDone | taskYielded | pumpPassed | taskResumed
  | schedulerPassed => rfl

/-- Reset reads nothing of the core but its parameters (R116). -/
theorem State.resetElements_congr {s s' : State} (h : s.cfg = s'.cfg) :
    s'.resetElements = { s.resetElements with
      resets := s'.resets + 1
      producerIn := s'.producerIn
      hostIn := s'.hostIn
      turns := s'.turns
      responses := s'.responses } := by
  simp only [State.resetElements, h]

/-- Settles O30: a frame for each side of the ring buffer, and reset's. -/
theorem eachSideWritesOnlyItsOwnElements : Obligations.EachSideWritesOnlyItsOwnElements := by
  refine ⟨fun w s t h => (fired_of_fire h).producer_frame,
    fun l s t hl h => (fired_of_fire h).consumer_frame hl, ?_⟩
  intro s s' t t' hc h h'
  cases h
  cases h'
  exact State.resetElements_congr hc

end Sys2Proof.Machine
end

section
/-! The ring buffer is a bounded first-in first-out queue (spec/10_state.md R19, spec/41_ring_buffer.md R67 to R69). -/

namespace Sys2Proof.Machine

variable {s : State} {b : Byte} {q : List Byte}

@[simp] theorem State.queue_respond (s : State) (p : Port) (st : Status) (d : Word32) :
    (s.respond p st d).queue = s.queue := State.queue_congr _ _ rfl rfl rfl rfl rfl

@[simp] theorem State.queue_countOverflow (s : State) : s.countOverflow.queue = s.queue :=
  State.queue_congr _ _ rfl rfl rfl rfl rfl

@[simp] theorem State.queue_feed (s : State) (b : Byte) : (s.feed b).queue = s.queue :=
  State.queue_congr _ _ (s.feed_cfg b) (s.feed_mem b) (s.feed_resets b) (s.feed_wp b) (s.feed_rp b)

theorem State.queue_pushByte_of_full (b : Byte) (hl : s.level = s.cfg.cap) : (s.pushByte b).queue = s.queue := by
  rcases s.pushByte_cases b with ⟨-, he⟩ | ⟨hne, -⟩
  · rw [he, State.queue_respond, State.queue_countOverflow]
  · exact absurd hl hne

theorem State.queue_pushByte_of_room (b : Byte) (h : s.RingOk) (hl : s.level < s.cfg.cap) :
    (s.pushByte b).queue = s.queue ++ [b] := by
  rcases s.pushByte_cases b with ⟨he, -⟩ | ⟨hne, he⟩
  · exact absurd he hl.ne
  · rw [he, State.queue_respond, s.queue_storeByte b h hne]

/-- A queue with a byte in front: the buffer is not empty, a pop reads that byte, and the rest stays. -/
theorem State.pop_of_queue_cons (h : s.RingOk) (hq : s.queue = b :: q) :
    s.level ≠ 0 ∧ s.memRead s.popSlot = b ∧ s.dropOldest.queue = q := by
  have hl : s.level ≠ 0 := fun hl => by
    rw [s.queue_eq_nil_iff.mpr hl] at hq
    cases hq
  have hcons := (s.queue_dropOldest h hl).symm.trans hq
  exact ⟨hl, List.cons.inj hcons⟩

/-- In IDLE a POP runs the pop primitive (R70). -/
theorem execPop_of_idle (hi : s.pstate = .idle) : exec .pop s = .next s.popByte := by
  simp [exec, execPop, hi]

theorem State.popByte_of_empty (hl : s.level = 0) : s.popByte = s.respond .control .empty 0 := by
  simp [State.popByte, State.popInternal, hl]

theorem State.popByte_of_queue_cons (h : s.RingOk) (hq : s.queue = b :: q) :
    s.popByte = s.dropOldest.respond .control .ok (zext32 b) := by
  obtain ⟨hl, hb, -⟩ := s.pop_of_queue_cons h hq
  simp [State.popByte, State.popInternal, hl, hb]

/-- Where the pump runs and the queue has a byte in front, its step pops that byte and feeds it (R93, R95). -/
theorem State.pumpStep_of_queue_cons (h : s.RingOk) (hp : s.pstate = .draining ∨ s.pstate = .running)
    (hq : s.queue = b :: q) :
    ∃ n, s.pumpStep = { s.dropOldest.feed b with drainN := n } := by
  obtain ⟨hl, hb, -⟩ := s.pop_of_queue_cons h hq
  rcases s.pumpStep_cases with ⟨-, he, -⟩ | ⟨-, -, hpump⟩ | ⟨-, he, -⟩ | ⟨-, -, hpump⟩ | ⟨he, -⟩
  · exact absurd he hl
  · exact ⟨_, hb ▸ hpump⟩
  · exact absurd he hl
  · exact ⟨_, hb ▸ hpump⟩
  · rcases hp with hp | hp <;> simp [State.pumpEnabled, hp] at he

/-- Settles O31: a PUSH appends where there is room, and a pop takes the front. -/
theorem ringBufferIsABoundedFifoQueue : Obligations.RingBufferIsABoundedFifoQueue := by
  intro s h
  refine ⟨s.length_queue, fun b => ⟨s.pushByte b, rfl, ?_, ?_⟩, ?_, ?_, ?_⟩
  · rw [s.length_queue]
    exact State.queue_pushByte_of_room b h.ring
  · rw [s.length_queue]
    exact State.queue_pushByte_of_full b
  · intro hi hq
    rw [execPop_of_idle hi, State.popByte_of_empty (s.queue_eq_nil_iff.mp hq)]
    rfl
  · intro b q hi hq
    obtain ⟨-, -, hrest⟩ := s.pop_of_queue_cons h.ring hq
    refine ⟨_, execPop_of_idle hi, ?_, ?_⟩ <;> rw [State.popByte_of_queue_cons h.ring hq]
    · rw [State.queue_respond, hrest]
    · rfl
  · intro b q hp hq
    obtain ⟨-, -, hrest⟩ := s.pop_of_queue_cons h.ring hq
    obtain ⟨n, hn⟩ := State.pumpStep_of_queue_cons h.ring hp hq
    refine ⟨s.pumpStep, rfl, ?_, ?_⟩ <;> rw [hn]
    · exact (s.dropOldest.queue_feed b).trans hrest
    · exact State.feed_decoderView_congr s.dropOldest s b rfl rfl

end Sys2Proof.Machine
end

section
/-! Which transition a step takes, agent by agent (spec/20_memory.md R42, R43; spec/30_encoding.md R53, R58). -/

namespace Sys2Proof.Machine

variable {s t : State} {a : Agent} {as : List Agent} {w : Word16} {ws : List Word16} {i : Instr} {p : Port}

/-! ### The turn a step gives -/

theorem step_of_turns_nil (h : s.turns = []) : step s = openTurn s := by
  unfold step
  rw [h]

theorem step_of_turns_cons (h : s.turns = a :: as) : step s = takeTurn a { s with turns := as } := by
  unfold step
  rw [h]

theorem issue_of_decode (h : decode p w = .instr i) : issue p w s = exec i s := by
  unfold issue
  rw [h]

theorem producerTurn_of_cons (h : s.producerIn = w :: ws) :
    producerTurn s = fire (.producer w) { s with producerIn := ws } := by
  unfold producerTurn
  rw [h]

theorem hostTurn_of_cons (hc : s.cpPending = false) (h : s.hostIn = w :: ws) :
    hostTurn s = fire (.control w) { s with hostIn := ws } := by
  unfold hostTurn
  rw [hc, h]
  rfl

theorem step_of_producer_turn (ht : s.turns = .producer :: as) (hw : s.producerIn = w :: ws) :
    step s = fire (.producer w) { s with turns := as, producerIn := ws } :=
  (step_of_turns_cons ht).trans (producerTurn_of_cons (s := { s with turns := as }) hw)

theorem step_of_host_turn (ht : s.turns = .host :: as) (hc : s.cpPending = false) (hw : s.hostIn = w :: ws) :
    step s = fire (.control w) { s with turns := as, hostIn := ws } :=
  (step_of_turns_cons ht).trans (hostTurn_of_cons (s := { s with turns := as }) hc hw)

theorem fireIfEnabled_of_enabled {l : Transition} (h : l.enabled s = true) : fireIfEnabled l s = fire l s :=
  if_pos h

/-- Settles O7: the turn issues the word, and a word that decodes is run as its instruction. -/
theorem stepRunsTheDecodedInstruction : Obligations.StepRunsTheDecodedInstruction :=
  ⟨fun _ _ _ _ _ ht hw hd => (step_of_producer_turn ht hw).trans (issue_of_decode hd),
    fun _ _ _ _ _ ht hc hw hd => (step_of_host_turn ht hc hw).trans (issue_of_decode hd)⟩

/-! ### What a turn can be -/

theorem producerTurn_cases (h : producerTurn s = .next t) :
    (∃ w ws, s.producerIn = w :: ws ∧ fire (.producer w) { s with producerIn := ws } = .next t) ∨
    (s.producerIn = [] ∧ t = s) := by
  cases hw : s.producerIn with
  | nil =>
    simp only [producerTurn, hw] at h
    cases h
    exact .inr ⟨rfl, rfl⟩
  | cons w ws => exact .inl ⟨w, ws, rfl, (producerTurn_of_cons hw).symm.trans h⟩

theorem hostTurn_cases (h : hostTurn s = .next t) :
    (∃ w ws, s.hostIn = w :: ws ∧ (Transition.control w).enabled s = true ∧
      fire (.control w) { s with hostIn := ws } = .next t) ∨
    ((s.hostIn = [] ∨ ∀ w, (Transition.control w).enabled s = false) ∧ t = s) := by
  by_cases hc : s.cpPending = true
  · simp only [hostTurn, hc, if_true] at h
    cases h
    exact .inr ⟨.inr fun w => by simp [Transition.enabled, hc], rfl⟩
  · rw [Bool.not_eq_true] at hc
    cases hw : s.hostIn with
    | nil =>
      simp only [hostTurn, hc, hw] at h
      cases h
      exact .inr ⟨.inl rfl, rfl⟩
    | cons w ws =>
      exact .inl ⟨w, ws, rfl, Transition.enabled_control_iff.mpr hc, (hostTurn_of_cons hc hw).symm.trans h⟩

/-- With no turn listed the pump comes before the scheduler. -/
theorem openTurn_cases (h : openTurn s = .next t) :
    (Transition.enabled s .pump = true ∧ fire .pump s = .next t) ∨
    (Transition.enabled s .yieldDone = true ∧ fire .yieldDone s = .next t) ∨
    (Transition.enabled s .pump = false ∧ Transition.enabled s .yieldDone = false ∧ t = s) := by
  unfold openTurn at h
  split at h
  · exact .inl ⟨‹_›, h⟩
  · rename_i hp
    rcases fireIfEnabled_cases h with ⟨he, hf⟩ | ⟨he, rfl⟩
    · exact .inr (.inl ⟨he, hf⟩)
    · exact .inr (.inr ⟨Bool.eq_false_iff.mpr hp, he, rfl⟩)

/-- Settles O10: the list of turns names the agent, and each agent's turn is its transition or passes. -/
theorem aStepTakesAtMostOneEnabledTransition : Obligations.AStepTakesAtMostOneEnabledTransition := by
  intro s t h
  refine ⟨_, rfl, ?_⟩
  cases ht : s.turns with
  | nil =>
    have hs : ({ s with turns := [].tail } : State) = s := by rw [List.tail_nil, ← ht]
    rw [step_of_turns_nil ht] at h
    rw [hs]
    rcases openTurn_cases h with ⟨he, hf⟩ | ⟨he, hf⟩ | ⟨hp, hy, rfl⟩
    · simp [he, hf]
    · simp [he, hf]
    · simp [hp, hy]
  | cons a as =>
    rw [step_of_turns_cons ht] at h
    rw [List.tail_cons, List.head?_cons]
    cases a with
    | producer =>
      rcases producerTurn_cases h with ⟨w, ws, hw, hf⟩ | ⟨hw, rfl⟩
      · exact .inl ⟨w, ws, rfl, hw, rfl, hf⟩
      · simp [show s.producerIn = [] from hw]
    | host =>
      rcases hostTurn_cases h with ⟨w, ws, hw, he, hf⟩ | ⟨hpass, rfl⟩
      · exact .inr (.inl ⟨w, ws, rfl, hw, he, hf⟩)
      · simp [show s.hostIn = [] ∨ _ from hpass]
    | pump => rcases fireIfEnabled_cases h with ⟨he, hf⟩ | ⟨he, rfl⟩ <;> simp [*]
    | scheduler => rcases fireIfEnabled_cases h with ⟨he, hf⟩ | ⟨he, rfl⟩ <;> simp [*]
    | reset =>
      have hf : fire .reset { s with turns := as } = .next t := h
      simp [hf, Transition.enabled]

/-- `s` with the transition `l` next: its agent has the next turn, and a command word is the next one on its port. -/
def State.offering (s : State) : Transition → State
  | .producer w => { s with turns := .producer :: s.turns, producerIn := w :: s.producerIn }
  | .control w => { s with turns := .host :: s.turns, hostIn := w :: s.hostIn }
  | .pump => { s with turns := .pump :: s.turns }
  | .yieldDone => { s with turns := .scheduler :: s.turns }
  | .reset => { s with turns := .reset :: s.turns }

theorem State.offering_differs_only_in_inputs (s : State) (l : Transition) :
    s.offering l = { s with
      turns := (s.offering l).turns
      producerIn := (s.offering l).producerIn
      hostIn := (s.offering l).hostIn } := by
  cases l <;> rfl

/-- The step from `s.offering l` is `l` taken in `s`, where `s` enables it. -/
theorem step_offering {l : Transition} (h : l.enabled s = true) : step (s.offering l) = fire l s := by
  cases l with
  | producer w => exact step_of_producer_turn rfl rfl
  | control w => exact step_of_host_turn rfl (Transition.enabled_control_iff (w := w).mp h) rfl
  | pump => exact fireIfEnabled_of_enabled h
  | yieldDone => exact fireIfEnabled_of_enabled h
  | reset => rfl

/-- Settles O11: the transition's agent gets the next turn. -/
theorem everyEnabledTransitionIsSomeStep : Obligations.EveryEnabledTransitionIsSomeStep :=
  fun l s h => ⟨s.offering l, s.offering_differs_only_in_inputs l, step_offering h⟩

end Sys2Proof.Machine
end

section
/-! Liveness under weak fairness (spec/20_memory.md R44, spec/44_pump.md R94, R96). -/

namespace Sys2Proof.Machine

variable {s t : State} {l : Transition} {x : Execution} {n : Nat}

theorem Transition.enabled_pump_iff :
    Transition.enabled s .pump = true ↔ s.pstate = .draining ∨ s.pstate = .running := by
  simp [Transition.enabled, State.pumpEnabled]

theorem Execution.state_succ_of_none (h : x.taken n = none) : x.state (n + 1) = x.state n := by
  have hstep := x.steps n
  rwa [h] at hstep

theorem Execution.fire_of_some (h : x.taken n = some l) :
    l.enabled (x.state n) = true ∧ fire l (x.state n) = .next (x.state (n + 1)) := by
  have hstep := x.steps n
  rwa [h] at hstep

/-- Settles O50: while the pump yields YIELD_DONE stays enabled, so it is taken, and it leaves the pump RUNNING. -/
theorem fairYieldingPumpLeavesYielding : Obligations.FairYieldingPumpLeavesYielding := by
  intro x hfair n hn
  by_contra! hstays
  have henabled : ∀ m, n ≤ m → Transition.enabled (x.state m) .yieldDone = true := by
    intro m hm
    rw [Transition.enabled_yieldDone_iff]
    rcases hm.eq_or_lt with rfl | hlt
    · exact hn
    · exact hstays m hlt
  obtain ⟨m, hm, htaken⟩ := hfair n henabled
  obtain ⟨he, hf⟩ := Execution.fire_of_some htaken
  have hresumed : (x.state (m + 1)).pstate = .running := by
    rw [(fire_yieldDone he).2] at hf
    rw [← Host.Outcome.next.inj hf, State.setPump_pstate]
  exact absurd (hstays (m + 1) (by omega)) (by simp [hresumed])

/-! ### A DRAIN that is outstanding -/

theorem State.level_feed (s : State) (b : Byte) : (s.feed b).level = s.level :=
  State.level_congr _ _ (s.feed_cfg b) (s.feed_wp b) (s.feed_rp b)

/-- While a DRAIN is outstanding, an enabled transition that is not the producer's ends it or is a pump step that takes
one byte out of the buffer. -/
theorem Fired.ends_drain_or_pops (hf : Fired s l t) (he : l.enabled s = true) (h : s.Inv)
    (hp : s.cpPending = true) (hl : ∀ w, l ≠ .producer w) :
    t.cpPending = false ∨ (l = .pump ∧ t.level + 1 = s.level) := by
  have hs : s.pstate = .draining := h.pendingIff.mp hp
  cases l with
  | producer w => exact absurd rfl (hl w)
  | control w => exact absurd hp (by simp [Transition.enabled_control_iff.mp he])
  | yieldDone => exact absurd (Transition.enabled_yieldDone_iff.mp he) (by simp [hs])
  | reset => cases hf; exact .inl rfl
  | pump =>
    cases hf with
    | drainDone => exact .inl rfl
    | drainFed _ hlevel =>
      refine .inr ⟨rfl, ?_⟩
      rw [← s.level_dropOldest h.ring hlevel, ← s.dropOldest.level_feed (s.memRead s.popSlot)]
      exact congrArg (· + 1) (State.level_congr _ _ rfl rfl rfl)
    | taskYielded hr | taskFed hr => simp [hs] at hr
    | pumpPassed hoff => simp [Transition.enabled, hoff] at he

/-- From the `n`-th moment on a DRAIN stays outstanding and the producer issues nothing. -/
structure Execution.DrainsForeverFrom (x : Execution) (n : Nat) : Prop where
  inv     : (x.state n).Inv
  pending : ∀ m, n ≤ m → (x.state m).cpPending = true
  silent  : ∀ m, n ≤ m → ∀ w, x.taken m ≠ some (.producer w)

namespace Execution.DrainsForeverFrom

theorem inv_succ (h : x.DrainsForeverFrom n) : (x.state (n + 1)).Inv := by
  cases ht : x.taken n with
  | none => exact (Execution.state_succ_of_none ht).symm ▸ h.inv
  | some l =>
    obtain ⟨he, hfire⟩ := Execution.fire_of_some ht
    exact (fired_of_fire hfire).keeps_inv he h.inv

theorem of_le (h : x.DrainsForeverFrom n) {m : Nat} (hm : n ≤ m) : x.DrainsForeverFrom m := by
  induction m, hm using Nat.le_induction with
  | base => exact h
  | succ m hm ih =>
    exact ⟨ih.inv_succ, fun k hk => h.pending k (by omega), fun k hk => h.silent k (by omega)⟩

/-- At each moment the pump takes one byte out of the buffer, or nothing happens. -/
theorem pops_or_idles (h : x.DrainsForeverFrom n) :
    (x.taken n = some .pump ∧ (x.state (n + 1)).level + 1 = (x.state n).level) ∨
    (x.taken n = none ∧ (x.state (n + 1)).level = (x.state n).level) := by
  cases ht : x.taken n with
  | none => exact .inr ⟨rfl, by rw [Execution.state_succ_of_none ht]⟩
  | some l =>
    obtain ⟨he, hfire⟩ := Execution.fire_of_some ht
    have hsilent : ∀ w, l ≠ .producer w := fun w hw => h.silent n le_rfl w (hw ▸ ht)
    rcases (fired_of_fire hfire).ends_drain_or_pops he h.inv (h.pending n le_rfl) hsilent with hdone | ⟨rfl, hlevel⟩
    · exact absurd (h.pending (n + 1) (by omega)) (by simp [hdone])
    · exact .inl ⟨rfl, hlevel⟩

theorem antitone_level (h : x.DrainsForeverFrom n) : Antitone fun k => (x.state (n + k)).level := by
  refine antitone_nat_of_succ_le fun k => ?_
  rcases (h.of_le (Nat.le_add_right n k)).pops_or_idles with ⟨-, hl⟩ | ⟨-, hl⟩
  · exact (Nat.le_succ _).trans_eq hl
  · exact hl.le

theorem pump_enabled (h : x.DrainsForeverFrom n) : Transition.enabled (x.state n) .pump = true :=
  Transition.enabled_pump_iff.mpr (.inl (h.inv.pendingIff.mp (h.pending n le_rfl)))

/-- LEVEL never rises, so at last it stays as it is; but the pump stays enabled, and each of its steps lowers LEVEL. -/
theorem not_fairTo_pump (h : x.DrainsForeverFrom n) : ¬ x.FairTo .pump := by
  intro hfair
  obtain ⟨k, hconst⟩ := WellFoundedLT.antitone_chain_condition h.antitone_level
  obtain ⟨m, hm, htaken⟩ := hfair (n + k) fun m hm => (h.of_le (by omega : n ≤ m)).pump_enabled
  obtain ⟨j, rfl⟩ : ∃ j, m = n + j := Nat.exists_eq_add_of_le (by omega)
  have hsame : (x.state (n + j)).level = (x.state (n + j + 1)).level :=
    (hconst j (by omega)).symm.trans (hconst (j + 1) (by omega))
  rcases (h.of_le (Nat.le_add_right n j)).pops_or_idles with ⟨-, hl⟩ | ⟨hnone, -⟩
  · omega
  · simp [hnone] at htaken

end Execution.DrainsForeverFrom

/-- Settles O51: a DRAIN that stays outstanding for ever starves the pump. -/
theorem fairDrainEndsOnceTheProducerStops : Obligations.FairDrainEndsOnceTheProducerStops := by
  intro x hfair n hinv hpending hsilent
  by_contra! hstays
  have hp : ∀ m, n ≤ m → (x.state m).cpPending = true := by
    intro m hm
    rcases hm.eq_or_lt with rfl | hlt
    · exact hpending
    · simpa using hstays m hlt
  exact Execution.DrainsForeverFrom.not_fairTo_pump ⟨hinv, hp, hsilent⟩ hfair

end Sys2Proof.Machine
end

section
/-! The USB and the UART core share no state (spec/20_memory.md R48, spec/60_exceptions.md R113). -/

namespace Sys2Proof.Machine

variable {y z : System} {x : Transport}

/-- A step of the pair is a step of the core named, put in that core's place. -/
theorem System.step_eq_next_iff :
    y.step x = .next z ↔ ∃ s, Machine.step (y.get x) = .next s ∧ z = y.set x s := by
  unfold System.step
  cases Machine.step (y.get x) <;> simp [eq_comm]

/-- Settles O58: a step reads and replaces one core alone. -/
theorem instancesDoNotInterfere : Obligations.InstancesDoNotInterfere := by
  refine ⟨fun y z h => ?_, fun y z h => ?_, fun y z z' h h' => ?_⟩
  · obtain ⟨s, hs, rfl⟩ := System.step_eq_next_iff.mp h
    exact ⟨rfl, hs⟩
  · obtain ⟨s, hs, rfl⟩ := System.step_eq_next_iff.mp h
    exact ⟨rfl, hs⟩
  · obtain ⟨s, hs, rfl⟩ := System.step_eq_next_iff.mp h
    obtain ⟨s', hs', rfl⟩ := System.step_eq_next_iff.mp h'
    exact ⟨y.set .uart s', System.step_eq_next_iff.mpr ⟨s', hs', rfl⟩, System.step_eq_next_iff.mpr ⟨s, hs, rfl⟩⟩

end Sys2Proof.Machine
end

section
/-! The commands that read (spec/20_memory.md R39). -/

namespace Sys2Proof.Machine

/-- GET, RDCNT and RDSTAT only answer, and the answer does not depend on the responses given before. -/
theorem exec_read_eq_respond {i : Instr} (hi : (∃ n, i = .get n) ∨ (∃ k, i = .rdcnt k) ∨ i = .rdstat) (s : State) :
    ∃ st d, ∀ rs : List Response,
      exec i { s with responses := rs } = .next (State.respond { s with responses := rs } .control st d) := by
  rcases hi with ⟨n, rfl⟩ | ⟨k, rfl⟩ | rfl
  · by_cases hn : (indexOperand n).toNat ≤ 15
    · exact ⟨.ok, sext32 (s.channel n), fun _ => if_pos hn⟩
    · exact ⟨.notFound, 0, fun _ => if_neg hn⟩
  · have hcounter : ∀ rs, State.counter { s with responses := rs } (selectorOperand k) =
        s.counter (selectorOperand k) := fun _ => rfl
    cases hk : s.counter (selectorOperand k) with
    | some c => exact ⟨.ok, c, fun rs => by simp only [exec, execRdcnt, hcounter, hk]⟩
    | none => exact ⟨.notFound, 0, fun rs => by simp only [exec, execRdcnt, hcounter, hk]⟩
  · exact ⟨.ok, s.statusWord, fun _ => rfl⟩

/-- Settles O27: the command answers alike before and after its own response. -/
theorem readCommandsOnlyAnswer : Obligations.ReadCommandsOnlyAnswer := by
  intro i s t hi h
  obtain ⟨st, d, hanswer⟩ := exec_read_eq_respond hi s
  cases (hanswer s.responses).symm.trans h
  exact ⟨fun _ => rfl, ⟨.control, rspWord st d⟩, rfl, hanswer _⟩

end Sys2Proof.Machine
end

section
/-! Decoding and encoding are inverse to each other (spec/30_encoding.md R54 to R58). -/

namespace Sys2Proof

variable {p : Port} {w : Word16} {i : Instr}

/-- R58: on the port that carries it, the encoding of an instruction decodes to that instruction. -/
theorem decode_encode (i : Instr) : decode i.port (encode i) = .instr i := by
  cases i <;> simp [decode, noOperand, Instr.port, Instr.opcode, Instr.arg]

theorem decode_eq_instr_iff : decode p w = .instr i ↔ p = i.port ∧ w = encode i := by
  constructor
  · intro h
    exact ⟨(port_of_decode h).symm, eq_encode_of_decode h⟩
  · rintro ⟨rfl, rfl⟩
    exact decode_encode i

/-- Settles O1: `decode_encode` one way, the fields of a word that decodes the other way. -/
theorem decodeIsExactlyTheInverseOfEncode : Obligations.DecodeIsExactlyTheInverseOfEncode :=
  fun _ _ _ => decode_eq_instr_iff

/-- Settles O2: each word is the encoding of its command. -/
theorem opcodeMapWordsDecodeToTheirCommands : Obligations.OpcodeMapWordsDecodeToTheirCommands :=
  ⟨decode_encode (.push 0xB5), decode_encode (.push 0), decode_encode .pop, decode_encode (.step 0xFF),
    decode_encode (.get 15), decode_encode .drain, decode_encode .resync, decode_encode .teardown,
    decode_encode (.rdcnt 2), decode_encode .rdstat⟩

/-! ### The words that are legal on a port -/

/-- The fields of some command's word: `OP` in 1..9, and `ARG` 0 where the command takes no operand (R55, R56). -/
theorem exists_instr_of_fields {op : BitVec 4} {arg : Byte} (h0 : op ≠ 0) (h9 : op.toNat < 0xA)
    (harg : arg = 0 ∨ op.toNat ∉ [2, 5, 6, 7, 9]) : ∃ i : Instr, i.opcode = op ∧ i.arg = arg := by
  -- `OP` 2, 5, 6, 7 and 9 take no operand
  have bare : op.toNat ∈ [2, 5, 6, 7, 9] → 0 = arg := fun hop => (harg.resolve_right (not_not_intro hop)).symm
  rcases opcode_values op with rfl | rfl | rfl | rfl | rfl | rfl | rfl | rfl | rfl | rfl | rfl | rfl | rfl | rfl |
    rfl | rfl
  · exact absurd rfl h0
  · exact ⟨.push arg, rfl, rfl⟩
  · exact ⟨.pop, rfl, bare (by decide)⟩
  · exact ⟨.step arg, rfl, rfl⟩
  · exact ⟨.get arg, rfl, rfl⟩
  · exact ⟨.drain, rfl, bare (by decide)⟩
  · exact ⟨.resync, rfl, bare (by decide)⟩
  · exact ⟨.teardown, rfl, bare (by decide)⟩
  · exact ⟨.rdcnt arg, rfl, rfl⟩
  · exact ⟨.rdstat, rfl, bare (by decide)⟩
  all_goals exact absurd h9 (by decide)

/-- PUSH alone has `OP` = 1, and it alone goes to the producer port (R52, R55). -/
theorem port_eq_producer_iff (i : Instr) : i.port = .producer ↔ i.opcode = 1 := by
  cases i <;> simp [Instr.port, Instr.opcode]

/-- R57's five kinds of illegal word. -/
def IllegalOn (p : Port) (w : Word16) : Prop :=
  opField w = 0 ∨ 0xA ≤ (opField w).toNat ∨ rsvField w ≠ 0 ∨
    (argField w ≠ 0 ∧ (opField w).toNat ∈ [2, 5, 6, 7, 9]) ∨
    (p = .control ∧ opField w = 1) ∨ (p = .producer ∧ opField w ≠ 1)

/-- The encoding of an instruction is not illegal on the instruction's port. -/
theorem not_illegalOn_encode (i : Instr) : ¬ IllegalOn i.port (encode i) := by
  unfold IllegalOn
  simp only [opField_encode, rsvField_encode, argField_encode]
  cases i <;> simp [Instr.port, Instr.opcode, Instr.arg]

/-- A word that is not illegal is the encoding of an instruction that the port carries. -/
theorem exists_instr_of_not_illegalOn (h : ¬ IllegalOn p w) : ∃ i : Instr, p = i.port ∧ w = encode i := by
  simp only [IllegalOn, not_or, not_and, not_not, not_le] at h
  obtain ⟨h0, h9, hrsv, harg, hcontrol, hproducer⟩ := h
  obtain ⟨i, hop, ha⟩ := exists_instr_of_fields h0 h9 (or_iff_not_imp_left.mpr harg)
  refine ⟨i, ?_, ?_⟩
  · cases p with
    | producer => exact ((port_eq_producer_iff i).mpr (hop.trans (hproducer rfl))).symm
    | control =>
      cases hp : i.port with
      | control => rfl
      | producer => exact absurd (hop.symm.trans ((port_eq_producer_iff i).mp hp)) (hcontrol rfl)
  · rw [word_eq_fields w, hrsv, ← hop, ← ha, encode]

/-- Decoding rejects the words that R57 lists and no others. -/
theorem illegalOn_iff_decode : IllegalOn p w ↔ ∃ why, decode p w = .illegal why := by
  constructor
  · intro h
    cases hd : decode p w with
    | illegal why => exact ⟨why, rfl⟩
    | instr i =>
      obtain ⟨rfl, rfl⟩ := decode_eq_instr_iff.mp hd
      exact absurd h (not_illegalOn_encode i)
  · rintro ⟨why, hd⟩
    by_contra h
    obtain ⟨i, rfl, rfl⟩ := exists_instr_of_not_illegalOn h
    rw [decode_encode] at hd
    cases hd

end Sys2Proof
end

section
/-! What a command answers, and on which port (spec/30_encoding.md R52, R53, R59, R60). -/

namespace Sys2Proof.Machine

variable {s t u : State}

/-- An illegal word is answered ILLEGAL with data 0, and nothing else changes (R57). -/
theorem issue_of_illegal {p : Port} {w : Word16} {why : Illegal} (h : decode p w = .illegal why) :
    issue p w s = .next (s.respond p .illegal 0) := by
  unfold issue
  rw [h]

/-- Settles O3: R57's list is the decoder's, and every other word is an instruction's encoding. -/
theorem illegalWordsAreAnsweredAndChangeNothing : Obligations.IllegalWordsAreAnsweredAndChangeNothing := by
  intro p w
  change (IllegalOn p w → _) ∧ (¬ IllegalOn p w → _)
  refine ⟨fun h s => ?_, fun h => ?_⟩
  · obtain ⟨why, hd⟩ := illegalOn_iff_decode.mp h
    exact issue_of_illegal hd
  · obtain ⟨i, rfl, rfl⟩ := exists_instr_of_not_illegalOn h
    exact ⟨i, rfl, fun s => issue_of_decode (decode_encode i)⟩

/-- Settles O4: a response word is its status and its data put together. -/
theorem responseWordHasStatusAboveData : Obligations.ResponseWordHasStatusAboveData :=
  fun _ _ => ⟨BitVec.extractLsb'_append_eq_left, BitVec.extractLsb'_append_eq_right⟩

@[simp] theorem rspStatus_rspWord (st : Status) (d : Word32) : rspStatus (rspWord st d) = st.code :=
  (responseWordHasStatusAboveData st d).1

/-- R60's status codes end at 0x07. -/
theorem Status.code_le (st : Status) : st.code.toNat ≤ 0x07 := by
  cases st <;> decide

/-- The statuses R60 lists for a command. DRAIN's own OK is not among them: the pump step that completes it gives
that one (R93). -/
@[simp] def statusesOf : Instr → List Status
  | .push _ => [.ok, .full]
  | .pop => [.ok, .empty, .busy, .stopped]
  | .step _ => [.ok, .busy, .stopped]
  | .get _ => [.ok, .notFound]
  | .drain => [.stopped, .mode]
  | .resync => [.ok, .stopped]
  | .teardown => [.ok]
  | .rdcnt _ => [.ok, .notFound]
  | .rdstat => [.ok]

/-- `t` has one response more than `s`, on the port and with a status of the list, and CP_PENDING as `s` has it. -/
def AnsweredWith (p : Port) (sts : List Status) (s t : State) : Prop :=
  ∃ st ∈ sts, ∃ d, t.responses = ⟨p, rspWord st d⟩ :: s.responses ∧ t.cpPending = s.cpPending

theorem answeredWith_respond {p : Port} {sts : List Status} {st : Status} {d : Word32} (hst : st ∈ sts)
    (hr : u.responses = s.responses) (hc : u.cpPending = s.cpPending) : AnsweredWith p sts s (u.respond p st d) :=
  ⟨st, hst, d, by rw [State.respond_responses, hr], hc⟩

/-- A command is answered once, on its port and with one of its statuses, unless it starts a DRAIN. -/
theorem exec_answer {i : Instr} (h : exec i s = .next t) :
    AnsweredWith i.port (statusesOf i) s t ∨
    (i = .drain ∧ s.cfg.drainMode = .nb ∧ t.responses = s.responses ∧ t.cpPending = true) := by
  cases i with
  | push b =>
    rcases execPush_cases h with ⟨-, rfl⟩ | ⟨-, rfl⟩ <;> exact .inl (answeredWith_respond (by simp) rfl rfl)
  | pop =>
    rcases execPop_cases h with ⟨-, rfl⟩ | ⟨-, rfl⟩ | ⟨-, -, rfl⟩ | ⟨-, -, rfl⟩ <;>
      exact .inl (answeredWith_respond (by simp) rfl rfl)
  | step b =>
    rcases execStep_cases h with ⟨-, rfl⟩ | ⟨-, rfl⟩ | ⟨-, rfl⟩
    · exact .inl (answeredWith_respond (by simp) rfl rfl)
    · exact .inl (answeredWith_respond (by simp) rfl rfl)
    · exact .inl (answeredWith_respond (by simp) (s.feed_responses b) (s.feed_cpPending b))
  | get n =>
    rcases execGet_cases h with ⟨-, rfl⟩ | ⟨-, rfl⟩ <;> exact .inl (answeredWith_respond (by simp) rfl rfl)
  | drain =>
    rcases execDrain_cases h with ⟨-, rfl⟩ | ⟨-, -, rfl⟩ | ⟨hm, -, rfl⟩
    · exact .inl (answeredWith_respond (by simp) rfl rfl)
    · exact .inl (answeredWith_respond (by simp) rfl rfl)
    · exact .inr ⟨rfl, hm, rfl, rfl⟩
  | resync =>
    rcases execResync_cases h with ⟨-, rfl⟩ | ⟨-, rfl⟩ <;> exact .inl (answeredWith_respond (by simp) rfl rfl)
  | teardown => exact .inl (execTeardown_cases h ▸ answeredWith_respond (by simp) rfl rfl)
  | rdcnt k =>
    rcases execRdcnt_cases h with ⟨n, -, rfl⟩ | ⟨-, rfl⟩ <;> exact .inl (answeredWith_respond (by simp) rfl rfl)
  | rdstat => exact .inl (execRdstat_cases h ▸ answeredWith_respond (by simp) rfl rfl)

/-- A transition gives no response or one. -/
theorem Fired.responses_cases {l : Transition} (hf : Fired s l t) :
    t.responses = s.responses ∨ ∃ p st d, t.responses = ⟨p, rspWord st d⟩ :: s.responses := by
  cases hf with
  | pushIllegal | pushFull | pushStored | answered | popped | resynced | tornDown | drainDone =>
    exact .inr ⟨_, _, _, rfl⟩
  | stepped w b => exact .inr ⟨_, _, _, by rw [State.respond_responses, State.feed_responses]⟩
  | drainFed | taskFed => exact .inl (State.feed_responses _ _)
  | drainStarted | taskYielded | pumpPassed | taskResumed | schedulerPassed | reset => exact .inl rfl

/-- Settles O5: a command by its answer, a step by the transition it takes. -/
theorem eachCommandReportsOnlyItsStatuses : Obligations.EachCommandReportsOnlyItsStatuses := by
  refine ⟨fun i s t r h hr => ?_, fun s t h => ?_⟩
  · rcases exec_answer h with ⟨st, hst, d, ht, -⟩ | ⟨-, -, ht, -⟩
    · obtain ⟨rfl, -⟩ := List.cons.inj (hr.symm.trans ht)
      rw [rspStatus_rspWord]
      have hcode := List.mem_map_of_mem (f := fun st : Status => st.code.toNat) hst
      cases i <;> exact hcode
    · exact absurd (hr.symm.trans ht) (List.cons_ne_self _ _)
  · rcases fired_of_step h with rfl | ⟨l, ps, hs, as, -, -, hf⟩
    · exact .inl rfl
    · rcases hf.responses_cases with hr | ⟨p, st, d, hr⟩
      · exact .inl hr
      · exact .inr ⟨_, hr, by rw [rspStatus_rspWord]; exact st.code_le⟩

/-- Every command answers a next state (R103). -/
theorem exists_exec_eq_next (i : Instr) (s : State) : ∃ t, exec i s = .next t := by
  cases i with
  | push | teardown | rdstat => exact ⟨_, rfl⟩
  | pop => simp only [exec, execPop]; split_ifs <;> exact ⟨_, rfl⟩
  | step b => simp only [exec, execStep]; split_ifs <;> exact ⟨_, rfl⟩
  | get n => simp only [exec, execGet]; split_ifs <;> exact ⟨_, rfl⟩
  | drain => simp only [exec, execDrain]; split_ifs <;> exact ⟨_, rfl⟩
  | resync => simp only [exec, execResync]; split_ifs <;> exact ⟨_, rfl⟩
  | rdcnt k => simp only [exec, execRdcnt]; split <;> exact ⟨_, rfl⟩

theorem exists_issue_eq_next (p : Port) (w : Word16) (s : State) : ∃ t, issue p w s = .next t := by
  cases hd : decode p w with
  | instr i =>
    rw [issue_of_decode hd]
    exact exists_exec_eq_next i s
  | illegal why => exact ⟨_, issue_of_illegal hd⟩

/-- Settles O6: an illegal word is answered, a command is answered or is a DRAIN's start, whose word is 0x5000. -/
theorem everyAcceptedWordIsAnsweredOnceOnItsPort : Obligations.EveryAcceptedWordIsAnsweredOnceOnItsPort := by
  intro p w s
  obtain ⟨t, ht⟩ := exists_issue_eq_next p w s
  refine ⟨t, ht, ?_⟩
  rcases issue_cases ht with ⟨i, hd, he⟩ | ⟨why, -, rfl⟩
  · obtain ⟨rfl, rfl⟩ := decode_eq_instr_iff.mp hd
    rcases exec_answer he with ⟨st, -, d, hr, hc⟩ | ⟨rfl, hm, hr, hc⟩
    · exact .inl ⟨_, hr, rfl, hc⟩
    · exact .inr ⟨rfl, rfl, hm, hr, hc⟩
  · exact .inl ⟨_, rfl, rfl, rfl⟩

/-- While a DRAIN is outstanding the host's turn passes (R53). -/
theorem hostTurn_of_pending (hc : s.cpPending = true) : hostTurn s = .next s :=
  if_pos hc

/-- Settles O8: the turns of the host and of the producer, by what they find. -/
theorem controlPortAcceptsOnlyWhileNothingIsPending : Obligations.ControlPortAcceptsOnlyWhileNothingIsPending :=
  ⟨fun _ _ => Transition.enabled_control_iff,
    fun _ _ ht hc => (step_of_turns_cons ht).trans (hostTurn_of_pending hc),
    fun _ _ _ _ ht hc hw => step_of_host_turn ht hc hw,
    fun _ _ => rfl,
    fun _ _ _ _ ht hw => step_of_producer_turn ht hw⟩

end Sys2Proof.Machine
end

section
/-! The frame encoder, and the decoder on a whole frame (spec/30_encoding.md R61 to R64,
spec/42_frame_decoder.md R74 to R77). -/

namespace Sys2Proof

/-- R64's raw value, for the values it is given for. -/
theorem toNat_frameRaw {v : Int} (hlo : -1024 ≤ v) (hhi : v ≤ 64511) : ((frameRaw v).toNat : Int) = v + 1024 := by
  rw [frameRaw, BitVec.toNat_ofInt]
  omega

theorem toNat_highByte (w : Word16) : (w.extractLsb' 8 8).toNat = w.toNat / 256 := by
  have hw := w.isLt
  rw [BitVec.extractLsb'_toNat, Nat.shiftRight_eq_div_pow]
  omega

theorem toNat_lowByte (w : Word16) : (w.extractLsb' 0 8).toNat = w.toNat % 256 := by
  rw [BitVec.extractLsb'_toNat, Nat.shiftRight_zero]

theorem highByte_append_lowByte (w : Word16) : w.extractLsb' 8 8 ++ w.extractLsb' 0 8 = w := by
  exact (BitVec.extractLsb'_append_extractLsb'_eq_extractLsb' (start₁ := 0) rfl).trans BitVec.extractLsb'_eq_self

end Sys2Proof

namespace Sys2Proof.Machine

/-! ### The accumulator's fields while a frame fills it (R22) -/

theorem indexField_accWithIndex (acc : Word32) (b : Byte) : (accWithIndex acc b).extractLsb' 16 8 = b := by
  ext i hi
  interval_cases i <;> simp [accWithIndex, zext32]

theorem indexField_accWithHigh (acc : Word32) (b : Byte) :
    (accWithHigh acc b).extractLsb' 16 8 = acc.extractLsb' 16 8 := by
  ext i hi
  interval_cases i <;> simp [accWithHigh, zext32]

theorem highField_accWithHigh (acc : Word32) (b : Byte) : (accWithHigh acc b).extractLsb' 8 8 = b := by
  ext i hi
  interval_cases i <;> simp [accWithHigh, zext32]

/-- The event of a frame's last byte, by the frame's index and value bytes (R76). -/
theorem completeFrame_frame (acc : Word32) (idx hi lo : Byte) :
    completeFrame (accWithLow (accWithHigh (accWithIndex acc idx) hi) lo) =
      if idx.toNat ≤ 15 then .emit idx (frameValue (hi ++ lo)) else .outOfRange idx := by
  rw [completeFrame, accIndex_accWithLow, accRaw_accWithLow, indexField_accWithHigh, indexField_accWithIndex,
    highField_accWithHigh]

/-- A whole frame fed from AwaitingSync leaves the decoder cleared and has the effect of its completion alone. -/
theorem State.feedAll_frame (s : State) (idx hi lo : Byte) (hs : s.stage = .awaitSync)
    (hsync : ∀ b ∈ [idx, hi, lo], ¬ (s.cfg.syncPolicy = .resync ∧ b = syncByte)) :
    s.feedAll [syncByte, idx, hi, lo] =
      State.apply { s with stage := .awaitSync, acc := 0 }
        (if idx.toNat ≤ 15 then .emit idx (frameValue (hi ++ lo)) else .outOfRange idx) := by
  have hstart : s.feed syncByte = { s with stage := .readChan, acc := 0 } :=
    s.feed_of syncByte (ev := .none) (by rw [hs]; rfl)
  have hindex := State.feed_of { s with stage := .readChan, acc := 0 } idx
    (decodeStep_readChan s.cfg.syncPolicy 0 idx (hsync idx (by simp)))
  have hhigh := State.feed_of { s with stage := .readHigh, acc := accWithIndex 0 idx } hi
    (decodeStep_readHigh s.cfg.syncPolicy _ hi (hsync hi (by simp)))
  have hlow := State.feed_of { s with stage := .readLow, acc := accWithHigh (accWithIndex 0 idx) hi } lo
    (decodeStep_readLow s.cfg.syncPolicy _ lo (hsync lo (by simp)))
  simp only [State.apply] at hindex hhigh
  simp only [State.feedAll, hstart, hindex, hhigh, hlow, completeFrame_frame]

theorem encodeFrame_eq (idx : Byte) (v : Int) :
    encodeFrame idx v = [syncByte, idx, (frameRaw v).extractLsb' 8 8, (frameRaw v).extractLsb' 0 8] := rfl

/-- A frame's value read as a signed number: the raw value less the bias, where that fits 16 bits (R62). -/
theorem toInt_frameValue_frameRaw {v : Int} (hlo : -1024 ≤ v) (hhi : v ≤ 32767) :
    (frameValue (frameRaw v)).toInt = v := by
  rw [frameValue, toNat_frameRaw hlo (by omega), toInt_wrap16, bias, add_sub_cancel_right]
  exact Int.bmod_eq_of_le (by omega) (by omega)

/-- Settles O42: the bytes are those of the raw value, and the fed frame emits what they put together decode to. -/
theorem encodedFrameDecodesBackToItsValue : Obligations.EncodedFrameDecodesBackToItsValue := by
  intro idx v hlo hhi
  have hraw := toNat_frameRaw hlo hhi
  refine ⟨⟨_, _, rfl, ?_, ?_⟩, fun hv hidx s hs hsync => ?_⟩
  · rw [toNat_highByte]
    omega
  · rw [toNat_lowByte]
    omega
  · rw [encodeFrame_eq, s.feedAll_frame _ _ _ hs fun b hb ⟨hp, he⟩ => hsync hp b hb he, highByte_append_lowByte,
      if_pos (by omega), State.apply, State.channel_setChannel_same _ _ _ hidx, toInt_frameValue_frameRaw hlo hv]

end Sys2Proof.Machine
end

section
/-! The words of the assembler (spec/30_encoding.md R54, R55, R65, R66). -/

namespace Sys2Proof

/-- An encoding as a number: `OP·4096 + ARG`, `RSV` being 0 (R54). -/
theorem toNat_encode (i : Instr) : (encode i).toNat = i.opcode.toNat * 4096 + i.arg.toNat := by
  have ho := i.opcode.isLt
  have ha := i.arg.isLt
  have hop : i.opcode.toNat <<< 4 ||| (0 : BitVec 4).toNat = i.opcode.toNat * 16 := by
    simp [Nat.shiftLeft_eq]
  rw [encode, BitVec.toNat_append, BitVec.toNat_append, hop, ← Nat.shiftLeft_add_eq_or_of_lt (by omega),
    Nat.shiftLeft_eq]
  omega

theorem encode_eq_ofNat (i : Instr) : encode i = BitVec.ofNat 16 (i.opcode.toNat * 4096 + i.arg.toNat) := by
  rw [← toNat_encode, BitVec.ofNat_toNat, BitVec.setWidth_eq]

/-- An instruction's word is meant for the instruction's port (R52, R55). -/
theorem portOfWord_encode (i : Instr) : portOfWord (encode i) = i.port := by
  rw [portOfWord, opField_encode]
  cases i <;> simp [Instr.opcode, Instr.port]

end Sys2Proof

namespace Sys2Proof.Machine

/-! ### Pseudo-instructions -/

theorem assemble_frame {idx : Nat} {v : Int} (h : (AsmLine.frame idx v).wf = true) :
    (AsmLine.frame idx v).assemble = some ((encodeFrame (BitVec.ofNat 8 idx) v).map pushWord) :=
  if_pos h

theorem assemble_bytes {bs : List Nat} (h : (AsmLine.bytes bs).wf = true) :
    (AsmLine.bytes bs).assemble = some (bs.map fun b => pushWord (BitVec.ofNat 8 b)) :=
  if_pos h

theorem assemble_eq_none {l : AsmLine} (h : ¬ l.wf = true) : l.assemble = none :=
  if_neg h

theorem frame_wf_iff (idx : Nat) (v : Int) : (AsmLine.frame idx v).wf = true ↔ idx ≤ 255 ∧ -1024 ≤ v ∧ v ≤ 64511 := by
  simp [AsmLine.wf, frameValueOk]

/-- PUSH of a byte as R66 writes it: 0x1000 + `b` on the producer port. -/
theorem pushWord_eq (b : Byte) : pushWord b = (.producer, BitVec.ofNat 16 (0x1000 + b.toNat)) := by
  simp [pushWord, encode_eq_ofNat, Instr.opcode, Instr.arg]

theorem pushWord_ofNat {n : Nat} (h : n ≤ 255) :
    pushWord (BitVec.ofNat 8 n) = (.producer, BitVec.ofNat 16 (0x1000 + n)) := by
  rw [pushWord_eq, BitVec.toNat_ofNat, Nat.mod_eq_of_lt (by omega)]

/-- Settles O56: every word of an expansion is `pushWord` of a byte. -/
theorem pseudoInstructionsExpandToPushWords : Obligations.PseudoInstructionsExpandToPushWords := by
  refine ⟨fun idx v hidx hlo hhi => ?_, fun idx v h => ?_, fun bs h => ?_⟩
  · have hraw := toNat_frameRaw hlo hhi
    have hnat : (frameRaw v).toNat = (v + 1024).toNat := by omega
    rw [assemble_frame ((frame_wf_iff idx v).mpr ⟨hidx, hlo, hhi⟩)]
    simp only [encodeFrame, List.map_cons, List.map_nil, pushWord_ofNat hidx]
    simp only [pushWord_eq, toNat_highByte, toNat_lowByte, hnat]
    rfl
  · refine assemble_eq_none fun hwf => ?_
    have := (frame_wf_iff idx v).mp hwf
    omega
  · rw [assemble_bytes (by simpa [AsmLine.wf] using h)]
    exact congrArg some (List.map_congr_left fun b hb => pushWord_ofNat (h b hb))

/-! ### Commands -/

/-- R65's word of a mnemonic and an operand is the encoding of the command that has those fields, on its port. -/
theorem commandWord_eq {m : Mnemonic} {n : Nat} {i : Instr} (hop : i.opcode.toNat = m.opcode)
    (harg : i.arg.toNat = n) : commandWord m n = (i.port, encode i) := by
  have ha := i.arg.isLt
  have hw : BitVec.ofNat 16 (m.opcode <<< 12 ||| n) = encode i := by
    rw [encode_eq_ofNat, ← hop, ← harg, ← Nat.shiftLeft_add_eq_or_of_lt (by omega), Nat.shiftLeft_eq]
  rw [commandWord, hw, portOfWord_encode]

/-- The table of mnemonics has the opcodes 1..9, and gives no operand to those that take none (R55, R56). -/
theorem mnemonics_fields : ∀ m ∈ mnemonics,
    1 ≤ m.opcode ∧ m.opcode ≤ 9 ∧ (m.operand = true → m.opcode ∉ [2, 5, 6, 7, 9]) := by
  decide

/-- What a command line that assembles gives: one word, of an operand that fits a byte and is 0 unless the command
takes one (R65). -/
theorem assemble_command_cases {m : Mnemonic} {operand : Option Nat} {ws : List (Port × Word16)}
    (h : (AsmLine.command m operand).assemble = some ws) :
    (operand.getD 0 = 0 ∨ m.operand = true) ∧ operand.getD 0 ≤ 255 ∧ ws = [commandWord m (operand.getD 0)] := by
  by_cases hwf : (AsmLine.command m operand).wf = true
  · cases operand with
    | none => exact ⟨.inl rfl, Nat.zero_le _, Option.some.inj (h.symm.trans (if_pos hwf))⟩
    | some n =>
      obtain ⟨hm, hn⟩ : m.operand = true ∧ n ≤ 255 := by simpa [AsmLine.wf] using hwf
      exact ⟨.inr hm, hn, Option.some.inj (h.symm.trans (if_pos hwf))⟩
  · rw [assemble_eq_none hwf] at h
    cases h

/-- Settles O57: the fields of the assembled word are those of an instruction. -/
theorem assembledCommandsAreLegalOnTheirPort : Obligations.AssembledCommandsAreLegalOnTheirPort := by
  intro m operand ws hm h
  obtain ⟨hoperand, hle, rfl⟩ := assemble_command_cases h
  obtain ⟨hpos, hnine, hbare⟩ := mnemonics_fields m hm
  have hop : (BitVec.ofNat 4 m.opcode).toNat = m.opcode := Nat.mod_eq_of_lt (by omega)
  have harg : (BitVec.ofNat 8 (operand.getD 0)).toNat = operand.getD 0 := Nat.mod_eq_of_lt (by omega)
  obtain ⟨i, hi, ha⟩ : ∃ i : Instr, i.opcode = BitVec.ofNat 4 m.opcode ∧ i.arg = BitVec.ofNat 8 (operand.getD 0) := by
    refine exists_instr_of_fields (fun h0 => ?_) (by omega) ?_
    · rw [h0] at hop
      exact absurd (show 0 = m.opcode from hop) (by omega)
    · rw [hop]
      exact hoperand.imp (fun hz => by rw [hz]; rfl) hbare
  rw [← hi] at hop
  rw [← ha] at harg
  refine ⟨i.port, encode i, i, by rw [commandWord_eq hop harg], decode_encode i, ?_⟩
  rw [toNat_encode, hop, harg]

end Sys2Proof.Machine
end

section
/-! The frames of the commands that act on the consumer side (spec/41_ring_buffer.md R69, spec/42_frame_decoder.md R79,
R82, spec/44_pump.md R92, R99). -/

namespace Sys2Proof.Machine

variable {s t : State}

/-- A fed byte changes only the decoder's registers, the channels and the two counters of its events (R79). -/
theorem State.feed_frame (s : State) (b : Byte) :
    s.feed b = { s with
      stage := (s.feed b).stage
      acc := (s.feed b).acc
      ch := (s.feed b).ch
      oorCnt := (s.feed b).oorCnt
      desyncCnt := (s.feed b).desyncCnt } := by
  unfold State.feed
  cases s.feedEvent b <;> rfl

theorem execPop_frame (h : exec .pop s = .next t) : t = { s with rp := t.rp, responses := t.responses } := by
  rcases execPop_cases h with ⟨-, rfl⟩ | ⟨-, rfl⟩ | ⟨-, -, rfl⟩ | ⟨-, -, rfl⟩ <;> rfl

theorem execStep_frame {b : Byte} (h : exec (.step b) s = .next t) :
    t = { s with
      stage := t.stage
      acc := t.acc
      ch := t.ch
      oorCnt := t.oorCnt
      desyncCnt := t.desyncCnt
      responses := t.responses } := by
  rcases execStep_cases h with ⟨-, rfl⟩ | ⟨-, rfl⟩ | ⟨-, rfl⟩
  · rfl
  · rfl
  · rw [s.feed_frame b]
    rfl

theorem execResync_frame (h : exec .resync s = .next t) :
    t = { s with stage := t.stage, acc := t.acc, responses := t.responses } := by
  rcases execResync_cases h with ⟨-, rfl⟩ | ⟨-, rfl⟩ <;> rfl

theorem execDrain_frame (h : exec .drain s = .next t) :
    t = { s with pstate := t.pstate, drainN := t.drainN, cpPending := t.cpPending, responses := t.responses } := by
  rcases execDrain_cases h with ⟨-, rfl⟩ | ⟨-, -, rfl⟩ | ⟨-, -, rfl⟩ <;> rfl

theorem execTeardown_frame (h : exec .teardown s = .next t) :
    t = { s with pstate := t.pstate, stage := t.stage, acc := t.acc, responses := t.responses } := by
  rw [execTeardown_cases h]
  rfl

/-- None of the five frames names ring storage. -/
theorem exec_consumer_mem {i : Instr} (hi : i = .pop ∨ (∃ b, i = .step b) ∨ i = .resync ∨ i = .drain ∨ i = .teardown)
    (h : exec i s = .next t) : t.mem = s.mem := by
  rcases hi with rfl | ⟨b, rfl⟩ | rfl | rfl | rfl
  · rw [execPop_frame h]
  · rw [execStep_frame h]
  · rw [execResync_frame h]
  · rw [execDrain_frame h]
  · rw [execTeardown_frame h]

/-- Settles O29: each command's frame, and storage from the frames. -/
theorem consumerCommandsChangeOnlyWhatTheirRuleNames : Obligations.ConsumerCommandsChangeOnlyWhatTheirRuleNames :=
  ⟨fun _ _ _ hi h _ => by rw [exec_consumer_mem hi h], fun _ _ => execPop_frame, fun _ _ _ => execStep_frame,
    fun _ _ => execResync_frame, fun _ _ => execDrain_frame, fun _ _ => execTeardown_frame⟩

end Sys2Proof.Machine
end

section
/-! PUSH on each side of LEVEL = CAP, and a run of PUSHes into a buffer that has room for all of them
(spec/41_ring_buffer.md R67, R71). -/

namespace Sys2Proof

/-- A command word with its fields in place: `OP` from bit 12 on, `ARG` in the low byte (R54). -/
theorem encode_eq_or (i : Instr) : encode i = i.opcode.zeroExtend 16 <<< 12 ||| i.arg.zeroExtend 16 := by
  apply BitVec.eq_of_getLsbD_eq
  intro k hk
  simp only [encode, BitVec.getLsbD_append]
  interval_cases k <;> simp

end Sys2Proof

namespace Sys2Proof.Machine

variable {s : State} {b : Byte}

theorem State.pushByte_of_full (hl : s.level = s.cfg.cap) :
    s.pushByte b = s.countOverflow.respond .producer .full 0 :=
  if_pos hl

theorem State.pushByte_of_room (hl : s.level ≠ s.cfg.cap) : s.pushByte b = (s.storeByte b).respond .producer .ok 0 :=
  if_neg hl

/-- Settles O18: the two branches of a PUSH, and the word that is PUSH's encoding. -/
theorem pushStoresTheByteOrCountsTheOverflow : Obligations.PushStoresTheByteOrCountsTheOverflow := by
  refine fun b => ⟨fun p w => ?_, fun s hl => ?_, fun s hl => ?_⟩
  · rw [decode_eq_instr_iff, encode_eq_or]
    rfl
  · exact congrArg Host.Outcome.next (State.pushByte_of_full hl)
  · exact congrArg Host.Outcome.next (State.pushByte_of_room hl)

theorem State.RingOk.pushByte (b : Byte) (h : s.RingOk) : (s.pushByte b).RingOk :=
  State.ringOk_of_execPush h rfl

@[simp] theorem State.pushByte_cfg (s : State) (b : Byte) : (s.pushByte b).cfg = s.cfg := by
  rcases s.pushByte_cases b with ⟨-, he⟩ | ⟨-, he⟩ <;> rw [he] <;> rfl

@[simp] theorem State.pushAll_cfg (s : State) (bs : List Byte) : (s.pushAll bs).cfg = s.cfg := by
  induction bs generalizing s with
  | nil => rfl
  | cons b bs ih => exact (ih _).trans (s.pushByte_cfg b)

/-- PUSHes that the buffer has room for are all stored, in order, and no overflow is counted. -/
theorem State.pushAll_of_room {bs : List Byte} (h : s.RingOk) (hroom : s.level + bs.length ≤ s.cfg.cap) :
    (s.pushAll bs).queue = s.queue ++ bs ∧ (s.pushAll bs).ovfCnt = s.ovfCnt := by
  induction bs generalizing s with
  | nil => exact ⟨(List.append_nil _).symm, rfl⟩
  | cons b bs ih =>
    rw [List.length_cons] at hroom
    have hlt : s.level < s.cfg.cap := by omega
    have hqueue := State.queue_pushByte_of_room b h hlt
    have hlevel : (s.pushByte b).level = s.level + 1 := by
      rw [← State.length_queue, hqueue, List.length_append, State.length_queue, List.length_singleton]
    have hovf : (s.pushByte b).ovfCnt = s.ovfCnt := by
      rw [State.pushByte_of_room hlt.ne]
      rfl
    obtain ⟨hq, ho⟩ := ih (h.pushByte b) (by rw [hlevel, s.pushByte_cfg]; omega)
    refine ⟨hq.trans ?_, ho.trans hovf⟩
    rw [hqueue, List.append_assoc, List.singleton_append]

/-- Settles O32: CAP bytes fit an empty buffer, and then LEVEL is CAP. -/
theorem bufferHoldsExactlyItsCapacity : Obligations.BufferHoldsExactlyItsCapacity := by
  intro s bs h hempty hlen
  obtain ⟨hq, ho⟩ := State.pushAll_of_room (bs := bs) h.ring (by omega)
  rw [s.queue_eq_nil_iff.mpr hempty, List.nil_append] at hq
  have hfull : (s.pushAll bs).level = (s.pushAll bs).cfg.cap := by
    rw [← State.length_queue, hq, hlen, s.pushAll_cfg]
  refine ⟨hq, decide_eq_true hfull, ho, fun b => ⟨(s.pushAll bs).pushByte b, rfl, ?_, ?_, ?_⟩⟩
  · rw [State.pushByte_of_full hfull]
    rfl
  · rw [State.queue_pushByte_of_full b hfull, hq]
  · rw [State.pushByte_of_full hfull, ← ho]
    rfl

end Sys2Proof.Machine
end

section
/-! POP by the pump's state and LEVEL (spec/41_ring_buffer.md R69, R70). -/

namespace Sys2Proof.Machine

variable {s : State}

/-- The response OK with a byte as its data is the byte zero-extended (R59, R60). -/
theorem rspWord_ok_zext32 (b : Byte) : rspWord .ok (zext32 b) = b.zeroExtend 40 := by
  apply BitVec.eq_of_toNat_eq
  rw [rspWord, zext32, BitVec.toNat_append, BitVec.toNat_setWidth_of_le (by decide),
    BitVec.toNat_setWidth_of_le (by decide)]
  simp [Status.code]

theorem execPop_of_stopped (hp : s.pstate = .stopped) : exec .pop s = .next (s.respond .control .stopped 0) :=
  if_pos hp

theorem execPop_of_task (hp : s.pstate = .running ∨ s.pstate = .yielding) :
    exec .pop s = .next (s.respond .control .busy 0) := by
  have hne : s.pstate ≠ .stopped := by rcases hp with hp | hp <;> simp [hp]
  exact (if_neg hne).trans (if_pos hp)

theorem State.popByte_of_nonempty (hl : s.level ≠ 0) :
    s.popByte = s.dropOldest.respond .control .ok (zext32 (s.memRead s.popSlot)) := by
  simp [State.popByte, State.popInternal, hl]

/-- While a DRAIN runs, CP_PENDING is set and the control port is closed (R28, R53). -/
theorem State.Inv.control_disabled (h : s.Inv) (hp : s.pstate = .draining) (w : Word16) :
    (Transition.control w).enabled s = false := by
  rw [← Bool.not_eq_true, Transition.enabled_control_iff, h.pendingIff.mpr hp]
  decide

/-- Settles O19: one equation for each case of R70. -/
theorem popAnswersByPumpStateAndLevel : Obligations.PopAnswersByPumpStateAndLevel := by
  refine ⟨fun p w => decode_eq_instr_iff, fun s => execPop_of_stopped, fun s => execPop_of_task,
    fun s hi hl => ?_, fun s hi hl => ?_, fun s => State.Inv.control_disabled⟩
  · rw [execPop_of_idle hi, State.popByte_of_empty hl]
    rfl
  · rw [execPop_of_idle hi, State.popByte_of_nonempty hl, ← rspWord_ok_zext32]
    rfl

end Sys2Proof.Machine
end

section
/-! The decoder step a stage at a time: the fields it stores, the value of a whole frame, and a SYNC byte inside a frame
(spec/42_frame_decoder.md R72 to R78). -/

namespace Sys2Proof.Machine

/-- Settles O33: the two branches of the step in AwaitingSync, and the event DISCARD applied. -/
theorem awaitingSyncScansForTheSyncByte : Obligations.AwaitingSyncScansForTheSyncByte := by
  intro pol acc b
  have hstart (h : b = 0xB5) : decodeStep pol .awaitSync acc b = (.readChan, 0, .none) := if_pos h
  have hdiscard (p : SyncPolicy) (a : Word32) (h : b ≠ 0xB5) :
      decodeStep p .awaitSync a b = (.awaitSync, 0, .discard) := if_neg h
  refine ⟨hstart, hdiscard pol acc, fun s hs hb => ?_⟩
  rw [s.feed_of b (hs ▸ hdiscard s.cfg.syncPolicy s.acc hb)]
  rfl

/-! ### What storing a byte in the accumulator keeps (R22) -/

theorem topField_accWithIndex (acc : Word32) (b : Byte) :
    (accWithIndex acc b).extractLsb' 24 8 = acc.extractLsb' 24 8 := by
  ext i hi
  interval_cases i <;> simp [accWithIndex, zext32]

theorem rawField_accWithIndex (acc : Word32) (b : Byte) :
    (accWithIndex acc b).extractLsb' 0 16 = acc.extractLsb' 0 16 := by
  ext i hi
  interval_cases i <;> simp [accWithIndex, zext32]

theorem upperHalf_accWithHigh (acc : Word32) (b : Byte) :
    (accWithHigh acc b).extractLsb' 16 16 = acc.extractLsb' 16 16 := by
  ext i hi
  interval_cases i <;> simp [accWithHigh, zext32]

theorem lowField_accWithHigh (acc : Word32) (b : Byte) :
    (accWithHigh acc b).extractLsb' 0 8 = acc.extractLsb' 0 8 := by
  ext i hi
  interval_cases i <;> simp [accWithHigh, zext32]

/-- Settles O34: the two steps, by the fields that `accWithIndex` and `accWithHigh` write and keep. -/
theorem frameBytesAreStoredInTheirFields : Obligations.FrameBytesAreStoredInTheirFields :=
  fun pol acc b h =>
    ⟨⟨_, decodeStep_readChan pol acc b h, indexField_accWithIndex acc b, topField_accWithIndex acc b,
        rawField_accWithIndex acc b⟩,
      ⟨_, decodeStep_readHigh pol acc b h, highField_accWithHigh acc b, upperHalf_accWithHigh acc b,
        lowField_accWithHigh acc b⟩⟩

/-! ### The fourth byte -/

/-- The event of a frame's last byte, by the fields of the accumulator it completes (R76, R77). -/
theorem completeFrame_accWithLow (acc : Word32) (b : Byte) :
    completeFrame (accWithLow acc b) =
      if (acc.extractLsb' 16 8).toNat ≤ 15 then
        .emit (acc.extractLsb' 16 8) (frameValue (acc.extractLsb' 8 8 ++ b))
      else .outOfRange (acc.extractLsb' 16 8) := by
  rw [completeFrame, accIndex_accWithLow, accRaw_accWithLow]

/-- A raw value is big-endian (R35, R62). -/
theorem toNat_highByte_append (hi lo : Byte) : (hi ++ lo).toNat = hi.toNat * 256 + lo.toNat := by
  rw [BitVec.toNat_append, ← Nat.shiftLeft_add_eq_or_of_lt lo.isLt, Nat.shiftLeft_eq]

theorem frameValue_append (hi lo : Byte) :
    frameValue (hi ++ lo) = wrap16 ((hi.toNat * 256 + lo.toNat : Int) - 1024) := by
  rw [frameValue, toNat_highByte_append, bias]
  push_cast
  rfl

/-- The balanced remainder of `raw − 1024`: the value itself up to raw 33791, and once around above (R77). -/
theorem toInt_frameValue (raw : Word16) :
    (frameValue raw).toInt =
      if raw.toNat ≤ 33791 then (raw.toNat : Int) - 1024 else (raw.toNat : Int) - 1024 - 65536 := by
  have hraw := raw.isLt
  rw [frameValue, toInt_wrap16, bias, bmod_eq_shifted_emod]
  split <;> omega

/-- Settles O35: the completed frame's index picks the event, and its raw value the number. -/
theorem fourthByteCompletesTheFrame : Obligations.FourthByteCompletesTheFrame := by
  intro pol acc b h
  have hstep := decodeStep_readLow pol acc b h
  rw [completeFrame_accWithLow] at hstep
  refine ⟨fun hidx => ⟨_, hstep.trans (by rw [if_pos hidx]), ?_⟩, fun hidx => hstep.trans (by rw [if_neg (by omega)])⟩
  rw [toInt_frameValue, toNat_highByte_append]
  push_cast
  rfl

/-! ### A SYNC byte inside a frame -/

/-- Everything the decoder step can do (R72). -/
theorem decodeStep_cases (pol : SyncPolicy) (stage : Stage) (acc : Word32) (b : Byte) :
    (stage = .awaitSync ∧ b = syncByte ∧ decodeStep pol stage acc b = (.readChan, 0, .none)) ∨
    (stage = .awaitSync ∧ b ≠ syncByte ∧ decodeStep pol stage acc b = (.awaitSync, 0, .discard)) ∨
    (stage ≠ .awaitSync ∧ (pol = .resync ∧ b = syncByte) ∧
      decodeStep pol stage acc b = (.readChan, 0, .restart)) ∨
    (stage = .readChan ∧ ¬ (pol = .resync ∧ b = syncByte) ∧
      decodeStep pol stage acc b = (.readHigh, accWithIndex acc b, .none)) ∨
    (stage = .readHigh ∧ ¬ (pol = .resync ∧ b = syncByte) ∧
      decodeStep pol stage acc b = (.readLow, accWithHigh acc b, .none)) ∨
    (stage = .readLow ∧ ¬ (pol = .resync ∧ b = syncByte) ∧
      decodeStep pol stage acc b = (.awaitSync, 0, completeFrame (accWithLow acc b))) := by
  by_cases ha : stage = .awaitSync
  · by_cases hb : b = syncByte <;> simp [ha, hb]
  by_cases hr : pol = .resync ∧ b = syncByte
  · obtain ⟨rfl, rfl⟩ := hr
    simp [ha, decodeStep_restart stage acc ha]
  cases stage with
  | awaitSync => exact absurd rfl ha
  | readChan => simp [hr, decodeStep_readChan]
  | readHigh => simp [hr, decodeStep_readHigh]
  | readLow => simp [hr, decodeStep_readLow]

variable {s : State} {b i : Byte} {v : Word16}

/-- An EMIT comes of the fourth byte of a frame with an index 0..15, which is no SYNC byte under RESYNC. -/
theorem State.feedEvent_eq_emit (h : s.feedEvent b = .emit i v) :
    s.stage = .readLow ∧ ¬ (s.cfg.syncPolicy = .resync ∧ b = syncByte) ∧
      i = s.acc.extractLsb' 16 8 ∧ i.toNat ≤ 15 ∧ v = frameValue (s.acc.extractLsb' 8 8 ++ b) := by
  rw [State.feedEvent_eq] at h
  rcases decodeStep_cases s.cfg.syncPolicy s.stage s.acc b with ⟨-, -, hd⟩ | ⟨-, -, hd⟩ | ⟨-, -, hd⟩ | ⟨-, -, hd⟩ |
    ⟨-, -, hd⟩ | ⟨hs, hr, hd⟩ <;> rw [hd] at h
  case inr.inr.inr.inr.inr =>
    simp only [completeFrame_accWithLow] at h
    split at h <;> cases h
    exact ⟨hs, hr, rfl, ‹_›, rfl⟩
  all_goals cases h

/-- Under RESYNC a decoder that a byte has brought to ReadingLow holds no SYNC byte as the high byte. -/
theorem State.highField_feed_ne_syncByte (hp : s.cfg.syncPolicy = .resync) (h : (s.feed b).stage = .readLow) :
    (s.feed b).acc.extractLsb' 8 8 ≠ syncByte := by
  rw [State.feed_stage] at h
  rw [State.feed_acc]
  rcases decodeStep_cases s.cfg.syncPolicy s.stage s.acc b with ⟨-, -, hd⟩ | ⟨-, -, hd⟩ | ⟨-, -, hd⟩ | ⟨-, -, hd⟩ |
    ⟨-, hr, hd⟩ | ⟨-, -, hd⟩ <;> rw [hd] at h ⊢
  case inr.inr.inr.inr.inl =>
    rw [highField_accWithHigh]
    exact fun hb => hr ⟨hp, hb⟩
  all_goals cases h

/-- Under RESYNC a SYNC byte starts a frame from every stage: by R73 in AwaitingSync, by R78 inside a frame. -/
theorem State.feed_syncByte_of_resync (hp : s.cfg.syncPolicy = .resync) :
    s.feed syncByte = { s with stage := .readChan, acc := 0 } := by
  by_cases hs : s.stage = .awaitSync
  · exact s.feed_of (ev := .none) syncByte (by rw [hs]; rfl)
  · exact s.feed_of (ev := .restart) syncByte (by rw [hp]; exact decodeStep_restart _ _ hs)

/-- Under RESYNC no frame with a SYNC byte in its value completes (R78). -/
theorem State.emit_value_of_resync {bs : List Byte} (hp : s.cfg.syncPolicy = .resync)
    (hs : s.stage = .readLow → s.acc.extractLsb' 8 8 ≠ syncByte) (h : .emit i v ∈ s.feedEvents bs) :
    ∃ hi lo : Byte, hi ≠ syncByte ∧ lo ≠ syncByte ∧ v = frameValue (hi ++ lo) := by
  induction bs generalizing s with
  | nil => cases h
  | cons b bs ih =>
    rcases List.mem_cons.mp h with hb | hbs
    · obtain ⟨hlow, hr, -, -, hv⟩ := State.feedEvent_eq_emit hb.symm
      exact ⟨_, b, hs hlow, fun hb => hr ⟨hp, hb⟩, hv⟩
    · exact ih (by rw [s.feed_cfg, hp]) (State.highField_feed_ne_syncByte hp) hbs

/-- The rest of a frame under LITERAL, whatever its bytes: only the last one has an event, the completion's. -/
theorem State.feedEvents_rest_of_frame (idx hi lo : Byte) (hp : s.cfg.syncPolicy = .literal)
    (hs : s.stage = .readChan) :
    s.feedEvents [idx, hi, lo] = [.none, .none,
      if idx.toNat ≤ 15 then .emit idx (frameValue (hi ++ lo)) else .outOfRange idx] := by
  have hdata (b : Byte) : ¬ (s.cfg.syncPolicy = .resync ∧ b = syncByte) := by simp [hp]
  have hindex := decodeStep_readChan _ s.acc idx (hdata idx)
  have hhigh := decodeStep_readHigh _ (accWithIndex s.acc idx) hi (hdata hi)
  have hlow := decodeStep_readLow _ (accWithHigh (accWithIndex s.acc idx) hi) lo (hdata lo)
  rw [← hs] at hindex
  simp only [State.feedEvents, State.feedEvent_eq, State.feed_stage, State.feed_acc, State.feed_cfg, hindex, hhigh,
    hlow, completeFrame_frame]

/-- Settles O36: the restart under RESYNC, the data byte under LITERAL, and the high byte kept free of SYNC. -/
theorem syncByteInsideAFrameFollowsThePolicy : Obligations.SyncByteInsideAFrameFollowsThePolicy := by
  have hdata : ¬ (SyncPolicy.literal = .resync ∧ syncByte = syncByte) := by simp
  refine ⟨fun acc stage h => decodeStep_restart stage acc h, fun s hp _ => State.feed_syncByte_of_resync hp,
    fun acc => ?_, fun s bs i v hp hs h => State.emit_value_of_resync hp (by simp [hs]) h⟩
  have hindex := decodeStep_readChan .literal acc syncByte hdata
  have hhigh := decodeStep_readHigh .literal acc syncByte hdata
  have hlow := decodeStep_readLow .literal acc syncByte hdata
  refine ⟨congrArg (·.1) hindex, ?_, congrArg (·.1) hhigh, ?_, congrArg (·.1) hlow,
    fun s hi lo hp hs => State.feedEvents_rest_of_frame 0xB5 hi lo hp hs⟩
  · exact (congrArg (·.2.1.extractLsb' 16 8) hindex).trans (indexField_accWithIndex acc syncByte)
  · exact (congrArg (·.2.1.extractLsb' 8 8) hhigh).trans (highField_accWithHigh acc syncByte)

end Sys2Proof.Machine
end

section
/-! What a fed byte writes, and which transitions feed one (spec/42_frame_decoder.md R79, R80). -/

namespace Sys2Proof.Machine

variable {s t : State} {l : Transition} {b : Byte}

theorem State.apply_emit (s : State) (i : Byte) (v : Word16) (h : i.toNat < 16) :
    s.apply (.emit i v) = { s with ch := s.ch.set i.toNat v h } := by
  have hset : s.ch.setIfInBounds i.toNat v = s.ch.set i.toNat v h := by
    ext j hj
    simp [Vector.getElem_set, Vector.getElem_setIfInBounds]
  rw [State.apply, State.setChannel, hset]

/-- The decoder's view with STAGE and ACC as RESYNC and TEARDOWN leave them (R82, R99). -/
def DecoderView.cleared (d : DecoderView) : DecoderView := { d with stage := .awaitSync, acc := 0 }

/-- Everything a command can do to the decoder: STEP feeds its byte or refuses it, RESYNC and TEARDOWN clear STAGE and
ACC, and no other command touches it. -/
theorem exec_decoderView {i : Instr} (h : exec i s = .next t) :
    t.decoderView = s.decoderView ∨
    (∃ b, i = .step b ∧ t.decoderView = (s.feed b).decoderView) ∨
    ((i = .resync ∨ i = .teardown) ∧ t.decoderView = s.decoderView.cleared) := by
  cases i with
  | push b => rcases execPush_cases h with ⟨-, rfl⟩ | ⟨-, rfl⟩ <;> exact .inl rfl
  | pop => rcases execPop_cases h with ⟨-, rfl⟩ | ⟨-, rfl⟩ | ⟨-, -, rfl⟩ | ⟨-, -, rfl⟩ <;> exact .inl rfl
  | step b =>
    rcases execStep_cases h with ⟨-, rfl⟩ | ⟨-, rfl⟩ | ⟨-, rfl⟩
    · exact .inl rfl
    · exact .inl rfl
    · exact .inr (.inl ⟨b, rfl, rfl⟩)
  | get n => rcases execGet_cases h with ⟨-, rfl⟩ | ⟨-, rfl⟩ <;> exact .inl rfl
  | drain => rcases execDrain_cases h with ⟨-, rfl⟩ | ⟨-, -, rfl⟩ | ⟨-, -, rfl⟩ <;> exact .inl rfl
  | resync =>
    rcases execResync_cases h with ⟨-, rfl⟩ | ⟨-, rfl⟩
    · exact .inl rfl
    · exact .inr (.inr ⟨.inl rfl, rfl⟩)
  | teardown => exact .inr (.inr ⟨.inr rfl, execTeardown_cases h ▸ rfl⟩)
  | rdcnt k => rcases execRdcnt_cases h with ⟨n, -, rfl⟩ | ⟨-, rfl⟩ <;> exact .inl rfl
  | rdstat => exact .inl (execRdstat_cases h ▸ rfl)

/-- The decoder does not see the read pointer move. -/
theorem State.decoderView_feed_dropOldest (s : State) (b : Byte) :
    (s.dropOldest.feed b).decoderView = (s.feed b).decoderView :=
  State.feed_decoderView_congr _ _ b rfl rfl

/-- A pump step feeds the oldest byte of the buffer or leaves the decoder alone (R93, R95). -/
theorem State.pumpStep_decoderView (s : State) :
    s.pumpStep.decoderView = s.decoderView ∨
    s.pumpStep.decoderView = (s.feed (s.memRead s.popSlot)).decoderView := by
  have hfed := s.decoderView_feed_dropOldest (s.memRead s.popSlot)
  rcases s.pumpStep_cases with ⟨-, -, he⟩ | ⟨-, -, he⟩ | ⟨-, -, he⟩ | ⟨-, -, he⟩ | ⟨-, he⟩ <;> rw [he]
  · exact .inl rfl
  · exact .inr hfed
  · exact .inl rfl
  · exact .inr hfed
  · exact .inl rfl

/-- The transition `l` feeds the byte `b`: a pump step the oldest byte of the buffer, a STEP its operand. -/
def State.FeedsBy (s : State) (l : Transition) (b : Byte) : Prop :=
  (l = .pump ∧ b = s.memRead s.popSlot) ∨ l = .control (encode (.step b))

/-- Outside reset, a transition leaves the decoder alone, changes it as a fed byte does, or is RESYNC or TEARDOWN. -/
theorem fire_decoderView (hl : l ≠ .reset) (h : fire l s = .next t) :
    t.decoderView = s.decoderView ∨
    (∃ b, s.FeedsBy l b ∧ t.decoderView = (s.feed b).decoderView) ∨
    ((l = .control 0x6000 ∨ l = .control 0x7000) ∧ t.decoderView = s.decoderView.cleared) := by
  cases l with
  | reset => exact absurd rfl hl
  | producer w => rw [(fired_of_fire h).producer_frame.1]; exact .inl rfl
  | yieldDone => cases fired_of_fire h <;> exact .inl rfl
  | pump =>
    cases h
    rcases s.pumpStep_decoderView with he | he
    · exact .inl he
    · exact .inr (.inl ⟨_, .inl ⟨rfl, rfl⟩, he⟩)
  | control w =>
    rcases issue_cases h with ⟨i, hd, he⟩ | ⟨why, -, rfl⟩
    · obtain rfl := eq_encode_of_decode hd
      rcases exec_decoderView he with hv | ⟨b, rfl, hv⟩ | ⟨rfl | rfl, hv⟩
      · exact .inl hv
      · exact .inr (.inl ⟨b, .inr rfl, hv⟩)
      · exact .inr (.inr ⟨.inl rfl, hv⟩)
      · exact .inr (.inr ⟨.inr rfl, hv⟩)
    · exact .inl rfl

/-- Settles O37: an equation for each event, and of what a transition does to the decoder the cases that change it. -/
theorem eventsWriteOnlyTheirElement : Obligations.EventsWriteOnlyTheirElement := by
  refine ⟨State.apply_emit, fun _ _ => rfl, fun _ => rfl, fun _ => rfl, fun _ => rfl,
    fun s b stage acc ev h => ⟨s.feed_of b h, congrArg (·.2.2) h⟩, fun l s t hl h hne => ?_⟩
  rcases fire_decoderView hl h with hv | ⟨b, hb, hv⟩ | ⟨hw, -⟩
  · exact absurd hv hne
  · exact .inl ⟨b, hb.imp_left And.left, hv⟩
  · exact .inr hw

/-- A fed byte that changes a channel is the fourth byte of a frame with an index 0..15, and completes it (R80). -/
theorem State.feed_ch_ne (h : (s.feed b).ch ≠ s.ch) :
    s.stage = .readLow ∧ (s.feed b).stage = .awaitSync ∧ (s.feed b).acc = 0 ∧
      (s.acc.extractLsb' 16 8).toNat < 16 ∧
      (s.feed b).ch =
        s.ch.setIfInBounds (s.acc.extractLsb' 16 8).toNat (frameValue (s.acc.extractLsb' 8 8 ++ b)) := by
  cases hev : s.feedEvent b with
  | emit i v =>
    obtain ⟨hs, hr, rfl, hi, rfl⟩ := State.feedEvent_eq_emit hev
    have hstep := decodeStep_readLow _ s.acc b hr
    rw [← hs] at hstep
    refine ⟨hs, ?_, ?_, by omega, ?_⟩
    · rw [s.feed_stage, hstep]
    · rw [s.feed_acc, hstep]
    · rw [State.feed, hev]
      rfl
  | none | discard | restart | outOfRange => exact absurd (by rw [State.feed, hev]; rfl) h

/-- Settles O41: of the transitions that touch the decoder only those that feed a byte can change a channel. -/
theorem channelsChangeOnlyWhenAFrameCompletes : Obligations.ChannelsChangeOnlyWhenAFrameCompletes := by
  intro l s t hl h hne
  rcases fire_decoderView hl h with hv | ⟨b, hb, hv⟩ | ⟨-, hv⟩
  · exact absurd (congrArg DecoderView.ch hv) hne
  · have hch : t.ch = (s.feed b).ch := congrArg DecoderView.ch hv
    obtain ⟨hs, hstage, hacc, hidx, hset⟩ := State.feed_ch_ne (hch ▸ hne)
    exact ⟨hs, (congrArg DecoderView.stage hv).trans hstage, (congrArg DecoderView.acc hv).trans hacc, b, hb, hidx,
      hch.trans hset⟩
  · exact absurd (congrArg DecoderView.ch hv) hne

end Sys2Proof.Machine
end

section
/-! Whole frames, and noise before a frame (spec/42_frame_decoder.md R83, R85). -/

namespace Sys2Proof.Machine

variable {s : State} {idx hi lo : Byte}

/-- R83's proviso, byte by byte. -/
theorem not_resync_and_syncByte {pol : SyncPolicy}
    (hsync : pol = .resync → idx ≠ syncByte ∧ hi ≠ syncByte ∧ lo ≠ syncByte) :
    ∀ b ∈ [idx, hi, lo], ¬ (pol = .resync ∧ b = syncByte) := by
  simpa [imp_and, not_and] using hsync

theorem State.feedAll_frame_in_range (hs : s.stage = .awaitSync)
    (hsync : s.cfg.syncPolicy = .resync → idx ≠ syncByte ∧ hi ≠ syncByte ∧ lo ≠ syncByte) (h : idx.toNat < 16) :
    s.feedAll [syncByte, idx, hi, lo] = { s with
      stage := .awaitSync
      acc := 0
      ch := s.ch.set idx.toNat (wrap16 ((hi.toNat * 256 + lo.toNat : Int) - 1024)) h } := by
  rw [s.feedAll_frame idx hi lo hs (not_resync_and_syncByte hsync), if_pos (by omega), State.apply_emit _ _ _ h,
    frameValue_append]

theorem State.feedAll_frame_out_of_range (hs : s.stage = .awaitSync)
    (hsync : s.cfg.syncPolicy = .resync → idx ≠ syncByte ∧ hi ≠ syncByte ∧ lo ≠ syncByte) (h : 16 ≤ idx.toNat) :
    s.feedAll [syncByte, idx, hi, lo] = { s with stage := .awaitSync, acc := 0, oorCnt := s.oorCnt + 1 } := by
  rw [s.feedAll_frame idx hi lo hs (not_resync_and_syncByte hsync), if_neg (by omega)]
  rfl

/-- Settles O38: the frame's completion is its one event, and the index says which. -/
theorem wellFormedFrameWritesItsChannelAlone : Obligations.WellFormedFrameWritesItsChannelAlone :=
  fun _ _ _ _ hs hsync => ⟨State.feedAll_frame_in_range hs hsync, State.feedAll_frame_out_of_range hs hsync⟩

/-- Noise without a SYNC byte is discarded and counted, and nothing else changes (R73). -/
theorem State.feedAll_noise {ns : List Byte} (hs : s.stage = .awaitSync) (ha : s.acc = 0)
    (hns : ∀ n ∈ ns, n ≠ syncByte) :
    s.feedAll ns = { s with desyncCnt := s.desyncCnt + BitVec.ofNat 32 ns.length } := by
  induction ns generalizing s with
  | nil => simp [State.feedAll]
  | cons n ns ih =>
    rw [List.forall_mem_cons] at hns
    have hfeed : s.feed n = { s with desyncCnt := s.desyncCnt + 1 } := by
      rw [s.feed_of n (ev := .discard) (by rw [hs]; exact if_neg hns.1), ← hs, ← ha]
      rfl
    rw [State.feedAll, hfeed, ih (s := { s with desyncCnt := s.desyncCnt + 1 }) hs ha hns.2, List.length_cons,
      BitVec.ofNat_add, BitVec.add_comm (BitVec.ofNat _ _), ← BitVec.add_assoc]
    rfl

/-- Under LITERAL two SYNC bytes start a false frame whose pending index is the second of them (R78). -/
theorem State.feedAll_two_syncBytes (hs : s.stage = .awaitSync) (hp : s.cfg.syncPolicy = .literal) :
    s.feedAll [syncByte, syncByte] = { s with stage := .readHigh, acc := 0x00B50000 } := by
  have hstart : s.feed syncByte = { s with stage := .readChan, acc := 0 } :=
    s.feed_of syncByte (ev := .none) (by rw [hs]; rfl)
  have hindex := State.feed_of { s with stage := .readChan, acc := 0 } syncByte
    (decodeStep_readChan s.cfg.syncPolicy 0 syncByte (by simp [hp]))
  rw [State.feedAll, State.feedAll, hstart, hindex]
  rfl

/-- Under RESYNC a SYNC byte makes what follows the same as from AwaitingSync. -/
theorem State.feedAll_of_resync (hp : s.cfg.syncPolicy = .resync) (bs : List Byte) :
    s.feedAll (syncByte :: bs) = State.feedAll { s with stage := .awaitSync } (syncByte :: bs) := by
  rw [State.feedAll, State.feedAll, State.feed_syncByte_of_resync hp,
    State.feed_syncByte_of_resync (s := { s with stage := .awaitSync }) hp]

/-- Settles O40: noise changes the count of discards alone, unless it starts a frame; under RESYNC no stage it can leave
the decoder in matters to a SYNC byte. -/
theorem noiseWithoutSyncDoesNotChangeTheFrame : Obligations.NoiseWithoutSyncDoesNotChangeTheFrame := by
  refine ⟨fun s ns idx hi lo hs ha hns => ?_, fun s ns hs ha hns hp => ?_,
    fun s ns idx hi lo hp hidx hhi hlo => ?_⟩
  · rw [s.feedAll_append, State.feedAll_noise hs ha hns]
  · rw [s.feedAll_append, State.feedAll_noise hs ha hns]
    have hfalse := State.feedAll_two_syncBytes
      (s := { s with desyncCnt := s.desyncCnt + BitVec.ofNat 32 ns.length }) hs hp
    exact ⟨(congrArg State.stage hfalse :), (congrArg State.acc hfalse :), (congrArg State.ch hfalse :)⟩
  · have hresync : (s.feedAll ns).cfg.syncPolicy = .resync := by rw [s.feedAll_cfg, hp]
    rw [s.feedAll_append]
    generalize s.feedAll ns = u at hresync ⊢
    have hframe := State.feedAll_of_resync hresync [idx, hi, lo]
    have hsync : u.cfg.syncPolicy = .resync → idx ≠ syncByte ∧ hi ≠ syncByte ∧ lo ≠ syncByte :=
      fun _ => ⟨hidx, hhi, hlo⟩
    exact ⟨fun h => hframe.trans (State.feedAll_frame_in_range (s := { u with stage := .awaitSync }) rfl hsync h),
      fun h => hframe.trans (State.feedAll_frame_out_of_range (s := { u with stage := .awaitSync }) rfl hsync h)⟩

end Sys2Proof.Machine
end

section
/-! The commands STEP and RESYNC: their words and their whole effect (spec/42_frame_decoder.md R81, R82). -/

namespace Sys2Proof.Machine

variable {s : State} {b : Byte}

theorem execStep_of_stopped (hp : s.pstate = .stopped) :
    exec (.step b) s = .next (s.respond .control .stopped 0) :=
  if_pos hp

theorem execStep_of_task (hp : s.pstate = .running ∨ s.pstate = .yielding) :
    exec (.step b) s = .next (s.respond .control .busy 0) := by
  have hne : s.pstate ≠ .stopped := by rcases hp with hp | hp <;> simp [hp]
  exact (if_neg hne).trans (if_pos hp)

theorem execStep_of_idle (hp : s.pstate = .idle) :
    exec (.step b) s = .next ((s.feed b).respond .control .ok (s.feedEvent b).word) := by
  simp [exec, execStep, byteOperand, hp]

/-- The five zero bits and the kind of an event word are one byte, the kind zero-extended (R81). -/
theorem Event.word_eq (ev : Event) : ev.word = ev.value ++ ev.index ++ ((0 : BitVec 5) ++ ev.kind : Byte) := by
  exact BitVec.append_assoc (x₁ := ev.value ++ ev.index)

/-- Settles O20: STEP in each `PSTATE` it can be accepted in, and the event word of each event. -/
theorem stepCommandFeedsItsByteAndReportsTheEvent : Obligations.StepCommandFeedsItsByteAndReportsTheEvent := by
  refine fun b => ⟨fun p w => ?_, fun s => execStep_of_stopped, fun s => execStep_of_task,
    fun s hp => ⟨(s.feedEvent b).word, ?_, ?_⟩⟩
  · rw [decode_eq_instr_iff, encode_eq_or]
    rfl
  · rw [execStep_of_idle hp, State.respond, s.feed_responses]
    rfl
  · rw [← State.feedEvent_eq]
    cases s.feedEvent b with
    | none | discard | restart => rfl
    | emit i v =>
      have hkind : (0 : BitVec 5) ++ (1 : BitVec 3) = (1 : Byte) := by decide
      exact (Event.word_eq (.emit i v)).trans (congrArg (v ++ i ++ ·) hkind)
    | outOfRange i =>
      have hkind : (0 : BitVec 5) ++ (2 : BitVec 3) = (2 : Byte) := by decide
      exact (Event.word_eq (.outOfRange i)).trans (congrArg ((0 : Word16) ++ i ++ ·) hkind)

/-- Settles O23: the two branches of RESYNC. -/
theorem resyncReturnsTheDecoderToAwaitingSync : Obligations.ResyncReturnsTheDecoderToAwaitingSync :=
  ⟨fun _ _ => decode_eq_instr_iff, fun _ h => if_pos h, fun _ h => if_neg h⟩

end Sys2Proof.Machine
end

section
/-! Decoding does not depend on the interleaving of the producer, the host and the pump: what the decoder will hold once
every byte on its way has reached it stays the same from step to step (spec/42_frame_decoder.md R84). -/

namespace Sys2Proof.Machine

variable {s t u : State} {w : Word16} {l : Transition} {k : Nat} {rs : List Response}

/-- The bytes on their way to the decoder: those buffered, then those still to be pushed. -/
def State.bytesToDecode (s : State) : List Byte := s.queue ++ pushedBytes s.producerIn

/-- What the decoder holds once every byte on its way has been fed. -/
def State.decodedView (s : State) : DecoderView := (s.feedAll s.bytesToDecode).decoderView

theorem State.decodedView_congr (hc : t.cfg = s.cfg) (hb : t.bytesToDecode = s.bytesToDecode)
    (hv : t.decoderView = s.decoderView) : t.decodedView = s.decodedView := by
  rw [State.decodedView, hb]
  exact State.feedAll_decoderView_congr t s _ (by rw [hc]) hv

/-! ### What each agent does to the bytes on their way -/

/-- A PUSH that is not answered FULL moves its byte from the words on offer to the end of the queue, and an illegal word
has no byte. -/
theorem decodedView_issue_producer (hr : s.RingOk) (h : issue .producer w s = .next t) :
    t.responses = ⟨.producer, rspWord .full 0⟩ :: s.responses ∨
    t.decodedView = State.decodedView { s with producerIn := w :: s.producerIn } := by
  rcases issue_cases h with ⟨i, hd, he⟩ | ⟨why, hd, rfl⟩
  · obtain ⟨b, rfl⟩ := push_of_decode_producer hd
    rcases execPush_cases he with ⟨-, rfl⟩ | ⟨hl, rfl⟩
    · exact .inl rfl
    · refine .inr (State.decodedView_congr rfl ?_ rfl)
      calc (s.storeByte b).queue ++ pushedBytes s.producerIn
          = s.queue ++ (b :: pushedBytes s.producerIn) := by
            rw [s.queue_storeByte b hr hl, List.append_assoc, List.singleton_append]
        _ = s.queue ++ pushedBytes (w :: s.producerIn) := by rw [pushedBytes_cons_push _ hd]
  · refine .inr (State.decodedView_congr rfl ?_ rfl)
    exact congrArg (s.queue ++ ·) (pushedBytes_cons_illegal _ hd).symm

/-- A word of the host that is no POP, STEP, RESYNC or TEARDOWN. -/
def LeavesDecoder (w : Word16) : Prop :=
  decode .control w ≠ .instr .pop ∧ (∀ b, decode .control w ≠ .instr (.step b)) ∧
    decode .control w ≠ .instr .resync ∧ decode .control w ≠ .instr .teardown

/-- Such a word starts a DRAIN or only answers: it touches neither the buffer nor the decoder. -/
theorem issue_control_frame (hw : LeavesDecoder w) (h : issue .control w s = .next t) :
    t = { s with pstate := t.pstate, drainN := t.drainN, cpPending := t.cpPending, responses := t.responses } := by
  obtain ⟨hpop, hstep, hresync, hteardown⟩ := hw
  rcases issue_cases h with ⟨i, hd, he⟩ | ⟨why, -, rfl⟩
  · cases i with
    | push b => cases port_of_decode hd
    | pop => exact absurd hd hpop
    | step b => exact absurd hd (hstep b)
    | resync => exact absurd hd hresync
    | teardown => exact absurd hd hteardown
    | drain => exact execDrain_frame he
    | get n => rcases execGet_cases he with ⟨-, rfl⟩ | ⟨-, rfl⟩ <;> rfl
    | rdcnt c => rcases execRdcnt_cases he with ⟨n, -, rfl⟩ | ⟨-, rfl⟩ <;> rfl
    | rdstat => exact execRdstat_cases he ▸ rfl
  · rfl

/-- A pump step that pops a byte feeds it: the oldest of the queue, and so the first of the bytes on their way. -/
theorem State.decodedView_fed (hr : s.RingOk) (hl : s.level ≠ 0) :
    (s.dropOldest.feed (s.memRead s.popSlot)).decodedView = s.decodedView := by
  have hbytes : s.bytesToDecode =
      s.memRead s.popSlot :: (s.dropOldest.feed (s.memRead s.popSlot)).bytesToDecode := by
    rw [State.bytesToDecode, State.bytesToDecode, State.queue_feed, State.feed_producerIn, s.queue_dropOldest hr hl]
    rfl
  rw [State.decodedView, State.decodedView, hbytes]
  exact State.feedAll_decoderView_congr _ _ _ (by simp) (s.decoderView_feed_dropOldest _)

theorem State.decodedView_pumpStep (hr : s.RingOk) : s.pumpStep.decodedView = s.decodedView := by
  rcases s.pumpStep_cases with ⟨-, -, he⟩ | ⟨-, hl, he⟩ | ⟨-, -, he⟩ | ⟨-, hl, he⟩ | ⟨-, he⟩ <;> rw [he]
  · exact State.decodedView_congr rfl rfl rfl
  · refine Eq.trans ?_ (State.decodedView_fed hr hl)
    exact State.decodedView_congr rfl rfl rfl
  · exact State.decodedView_congr rfl rfl rfl
  · exact State.decodedView_fed hr hl

/-! ### The condition on a run, and a step under it -/

/-- No transition writes the inputs: a step alone uses them up (R33). -/
theorem Fired.keeps_inputs (hf : Fired s l t) : t.hostIn = s.hostIn ∧ t.turns = s.turns := by
  cases l with
  | producer w => rw [hf.producer_frame.1]; exact ⟨rfl, rfl⟩
  | control w => rw [hf.consumer_frame (.inl ⟨w, rfl⟩)]; exact ⟨rfl, rfl⟩
  | pump => rw [hf.consumer_frame (.inr (.inl rfl))]; exact ⟨rfl, rfl⟩
  | yieldDone => rw [hf.consumer_frame (.inr (.inr rfl))]; exact ⟨rfl, rfl⟩
  | reset => cases hf; exact ⟨rfl, rfl⟩

/-- A step takes the first turn, and of the host's words at most the first. -/
theorem step_inputs (h : step s = .next t) : t.turns = s.turns.tail ∧ t.hostIn ⊆ s.hostIn := by
  rcases step_cases h with ⟨as, w, ws, ht, -, hi⟩ | ⟨as, w, ws, ht, -, hw, hi⟩ | ⟨as, ht, rfl⟩ | ⟨-, rfl⟩ |
    ⟨-, rfl⟩ | rfl
  · obtain ⟨hhost, hturns⟩ := (fired_of_issue_producer hi).keeps_inputs
    exact ⟨by rw [hturns, ht, List.tail_cons], by rw [hhost]; exact List.Subset.refl _⟩
  · obtain ⟨hhost, hturns⟩ := (fired_of_issue_control hi).keeps_inputs
    exact ⟨by rw [hturns, ht, List.tail_cons], by rw [hhost, hw]; exact List.subset_cons_self _ _⟩
  · exact ⟨by rw [ht, List.tail_cons]; rfl, List.Subset.refl _⟩
  · obtain ⟨hhost, hturns⟩ := (fired_pumpStep { s with turns := s.turns.tail }).keeps_inputs
    exact ⟨hturns, by rw [hhost]; exact List.Subset.refl _⟩
  · exact ⟨rfl, List.Subset.refl _⟩
  · exact ⟨rfl, List.Subset.refl _⟩

/-- R84's provisos on where a run starts: the invariant, no reset to come, and nothing of the host's that feeds, pops or
clears. -/
structure State.OnlyPumpFeeds (s : State) : Prop where
  inv       : s.Inv
  noReset   : Agent.reset ∉ s.turns
  hostWords : ∀ w ∈ s.hostIn, LeavesDecoder w

theorem State.OnlyPumpFeeds.step (h : s.OnlyPumpFeeds) (hstep : step s = .next t) : t.OnlyPumpFeeds := by
  obtain ⟨hturns, hhost⟩ := step_inputs hstep
  exact ⟨everyStepKeepsTheCoreInvariant s t h.inv hstep, fun hr => h.noReset (List.mem_of_mem_tail (hturns ▸ hr)),
    fun w hw => h.hostWords w (hhost hw)⟩

/-- A step that answers no FULL changes nothing of what will have been decoded. -/
theorem State.OnlyPumpFeeds.decodedView_step (h : s.OnlyPumpFeeds) (hstep : Machine.step s = .next t) :
    t.responses = ⟨.producer, rspWord .full 0⟩ :: s.responses ∨ t.decodedView = s.decodedView := by
  rcases step_cases hstep with ⟨as, w, ws, -, hw, hi⟩ | ⟨as, w, ws, -, -, hw, hi⟩ | ⟨as, ht, rfl⟩ | ⟨-, rfl⟩ |
    ⟨-, rfl⟩ | rfl
  · have hring := (h.inv.withInputs ws s.hostIn as).ring
    refine (decodedView_issue_producer hring hi).imp_right fun hv => hv.trans ?_
    exact State.decodedView_congr rfl (congrArg (s.queue ++ pushedBytes ·) hw.symm) rfl
  · right
    rw [issue_control_frame (h.hostWords w (by simp [hw])) hi]
    exact State.decodedView_congr rfl rfl rfl
  · exact absurd (by simp [ht]) h.noReset
  · have hring := (h.inv.withInputs s.producerIn s.hostIn s.turns.tail).ring
    exact .inr ((State.decodedView_pumpStep hring).trans (State.decodedView_congr rfl rfl rfl))
  · exact .inr (State.decodedView_congr rfl rfl rfl)
  · exact .inr (State.decodedView_congr rfl rfl rfl)

/-! ### Runs -/

theorem core_run_succ_cases (M : Host.Core) {s t : M.State} (h : M.run (k + 1) s = .next t) :
    ∃ u, M.step s = .next u ∧ M.run k u = .next t := by
  rw [Host.Core.run] at h
  split at h
  · exact ⟨_, ‹_›, h⟩
  · cases h
  · cases h

/-- A run of one step more that reaches a state takes a step and then runs on from there. -/
theorem run_succ_cases (h : run (k + 1) s = .next t) : ∃ u, step s = .next u ∧ run k u = .next t :=
  core_run_succ_cases core h

theorem responses_suffix_of_step (h : step s = .next t) : s.responses <:+ t.responses := by
  rcases eachCommandReportsOnlyItsStatuses.2 s t h with hr | ⟨r, hr, -⟩ <;> rw [hr]
  exact List.suffix_cons r _

/-- A run only adds responses. -/
theorem responses_suffix_of_run (h : run k s = .next t) : s.responses <:+ t.responses := by
  induction k generalizing s with
  | zero => cases h; exact List.suffix_refl _
  | succ k ih =>
    obtain ⟨u, hstep, hrun⟩ := run_succ_cases h
    exact (responses_suffix_of_step hstep).trans (ih hrun)

/-- R84, a step at a time: the responses of the first step are the oldest of the run's. -/
theorem State.OnlyPumpFeeds.decodedView_run (h : s.OnlyPumpFeeds) (hrun : run k s = .next t)
    (hrs : t.responses = rs ++ s.responses) (hfull : ∀ r ∈ rs, r.port = .producer → rspStatus r.word ≠ 0x02) :
    t.decodedView = s.decodedView := by
  induction k generalizing s rs with
  | zero => cases hrun; rfl
  | succ k ih =>
    obtain ⟨u, hstep, hrun⟩ := run_succ_cases hrun
    obtain ⟨first, hfirst⟩ := responses_suffix_of_step hstep
    obtain ⟨rest, hrest⟩ := responses_suffix_of_run hrun
    obtain rfl : rs = rest ++ first := by
      refine List.append_cancel_right (bs := s.responses) ?_
      rw [← hrs, ← hrest, ← hfirst, List.append_assoc]
    have hu : u.decodedView = s.decodedView := by
      refine (h.decodedView_step hstep).resolve_left fun hr => ?_
      obtain rfl : first = [⟨.producer, rspWord .full 0⟩] :=
        List.append_cancel_right (bs := s.responses) (hfirst.trans hr)
      exact hfull ⟨.producer, rspWord .full 0⟩ (by simp) rfl (rspStatus_rspWord .full 0)
    exact (ih (h.step hstep) hrun hrest.symm fun r hr => hfull r (List.mem_append_left _ hr)).trans hu

/-- Settles O39: with nothing left on its way, what will have been decoded is what the decoder holds. -/
theorem decodingDoesNotDependOnTheInterleaving : Obligations.DecodingDoesNotDependOnTheInterleaving := by
  intro s t k rs hinv hreset hhost hrun hrs hfull
  have hview := State.OnlyPumpFeeds.decodedView_run ⟨hinv, hreset, hhost⟩ hrun hrs hfull
  refine ⟨hview, fun hq hp => ?_⟩
  have hdone : t.decodedView = t.decoderView := by
    rw [State.decodedView, State.bytesToDecode, hq, hp]
    rfl
  exact hdone.symm.trans hview

end Sys2Proof.Machine
end

section
/-! The channel table: what GET answers, and the channel registers after a run of fed bytes
(spec/43_channel_table.md R86, R87, R88). -/

namespace Sys2Proof.Machine

variable {s : State} {n : Byte}

theorem execGet_of_register (h : n.toNat < 16) :
    exec (.get n) s = .next (s.respond .control .ok (sext32 (s.channel n))) := by
  obtain ⟨t, ht⟩ := exists_exec_eq_next (.get n) s
  rcases execGet_cases ht with ⟨-, rfl⟩ | ⟨hn, -⟩
  · exact ht
  · omega

theorem execGet_of_no_register (h : 16 ≤ n.toNat) :
    exec (.get n) s = .next (s.respond .control .notFound 0) := by
  obtain ⟨t, ht⟩ := exists_exec_eq_next (.get n) s
  rcases execGet_cases ht with ⟨hn, -⟩ | ⟨-, rfl⟩
  · omega
  · exact ht

/-- Settles O21: the word of GET, and its answer on each side of index 16. -/
theorem getReadsTheChannelSignExtended : Obligations.GetReadsTheChannelSignExtended := by
  refine fun n => ⟨fun p w => ?_, fun s h => ?_, fun s => execGet_of_no_register⟩
  · rw [decode_eq_instr_iff, encode_eq_or]
    rfl
  · rw [← State.channel_eq s n h]
    exact execGet_of_register h

/-! ### The channel registers after a run of fed bytes -/

theorem latestEmit_cons (n : Byte) (v : Word16) (ev : Event) (es : List Event) :
    latestEmit n v (ev :: es) = latestEmit n (latestEmit n v [ev]) es := by
  cases ev <;> rfl

/-- An EMIT writes its own channel register, and no other event writes one (R79). -/
theorem State.channel_apply (s : State) (ev : Event) (h : n.toNat < 16) :
    (s.apply ev).channel n = latestEmit n (s.channel n) [ev] := by
  cases ev with
  | emit i v =>
    by_cases hi : i = n
    · subst hi
      exact (s.channel_setChannel_same i v h).trans (if_pos rfl).symm
    · exact (s.channel_setChannel_other i n v h hi).trans (if_neg hi).symm
  | none | discard | restart | outOfRange => rfl

theorem State.channel_feed (s : State) (b : Byte) (h : n.toNat < 16) :
    (s.feed b).channel n = latestEmit n (s.channel n) [s.feedEvent b] :=
  State.channel_apply _ _ h

/-- R87, a fed byte at a time. -/
theorem State.channel_feedAll (s : State) (bs : List Byte) (h : n.toNat < 16) :
    (s.feedAll bs).channel n = latestEmit n (s.channel n) (s.feedEvents bs) := by
  induction bs generalizing s with
  | nil => rfl
  | cons b bs ih => rw [State.feedAll, State.feedEvents, latestEmit_cons, ih, s.channel_feed b h]

@[simp] theorem State.feedAll_responses (s : State) (bs : List Byte) : (s.feedAll bs).responses = s.responses := by
  induction bs generalizing s with
  | nil => rfl
  | cons b bs ih => rw [State.feedAll, ih, s.feed_responses]

/-- Settles O43: GET answers with the register, which holds the latest EMIT of the run. -/
theorem getReturnsTheLatestEmittedValue : Obligations.GetReturnsTheLatestEmittedValue := by
  refine fun s bs n h => ⟨⟨_, execGet_of_register h, ?_⟩, fun c => State.channel_resetOf c n⟩
  rw [State.respond_responses, s.channel_feedAll bs h, s.feedAll_responses]
  rfl

end Sys2Proof.Machine
end

section
/-! The pump's own steps and YIELD_DONE, by PSTATE and LEVEL (spec/44_pump.md R91, R93, R95, R96). -/

namespace Sys2Proof.Machine

variable {s : State}

theorem State.popInternal_of_empty (hl : s.level = 0) : s.popInternal = none :=
  if_pos hl

theorem State.popInternal_of_nonempty (hl : s.level ≠ 0) :
    s.popInternal = some (s.memRead s.popSlot, s.dropOldest) :=
  if_neg hl

theorem State.pumpStep_of_draining_empty (hp : s.pstate = .draining) (hl : s.level = 0) :
    s.pumpStep = ({ s with pstate := .idle, cpPending := false } : State).respond .control .ok s.drainN := by
  rw [State.pumpStep, hp, State.pumpStepNB, State.popInternal_of_empty hl]

theorem State.pumpStep_of_draining_nonempty (hp : s.pstate = .draining) (hl : s.level ≠ 0) :
    s.pumpStep = { s.dropOldest.feed (s.memRead s.popSlot) with drainN := inc32 s.drainN } := by
  rw [State.pumpStep, hp, State.pumpStepNB, State.popInternal_of_nonempty hl]

theorem State.pumpStep_of_running_empty (hp : s.pstate = .running) (hl : s.level = 0) :
    s.pumpStep = s.setPump .yielding := by
  rw [State.pumpStep, hp, State.pumpStepCOOP, State.popInternal_of_empty hl]

theorem State.pumpStep_of_running_nonempty (hp : s.pstate = .running) (hl : s.level ≠ 0) :
    s.pumpStep = s.dropOldest.feed (s.memRead s.popSlot) := by
  rw [State.pumpStep, hp, State.pumpStepCOOP, State.popInternal_of_nonempty hl]

/-- Settles O44: R91's two columns. -/
theorem pumpAndSchedulerStepsEnabledByPumpState : Obligations.PumpAndSchedulerStepsEnabledByPumpState :=
  fun _ => ⟨Transition.enabled_pump_iff, Transition.enabled_yieldDone_iff⟩

/-- Settles O45: the NB pump's step on each side of LEVEL = 0. -/
theorem drainingPumpFeedsOneByteOrCompletes : Obligations.DrainingPumpFeedsOneByteOrCompletes :=
  fun _ hp => ⟨fun hl => congrArg Host.Outcome.next (State.pumpStep_of_draining_nonempty hp hl),
    fun hl => congrArg Host.Outcome.next (State.pumpStep_of_draining_empty hp hl)⟩

/-- Settles O46: the COOP pump's step on each side of LEVEL = 0. -/
theorem runningPumpFeedsOneByteOrYields : Obligations.RunningPumpFeedsOneByteOrYields :=
  fun _ hp => ⟨fun hl => congrArg Host.Outcome.next (State.pumpStep_of_running_nonempty hp hl),
    fun hl => congrArg Host.Outcome.next (State.pumpStep_of_running_empty hp hl)⟩

/-- Settles O47: YIELD_DONE is enabled in YIELDING, and there it only sets PSTATE. -/
theorem yieldDoneOnlyResumesThePump : Obligations.YieldDoneOnlyResumesThePump :=
  fun _ hp => (fire_yieldDone (Transition.enabled_yieldDone_iff.mpr hp)).2

end Sys2Proof.Machine
end

section
/-! The commands DRAIN and TEARDOWN (spec/44_pump.md R92, R99). -/

namespace Sys2Proof.Machine

variable {s : State}

/-! ### DRAIN -/

theorem drainMode_ne_coop (hm : s.cfg.drainMode = .nb) : s.cfg.drainMode ≠ .coop := by
  simp [hm]

theorem execDrain_of_coop (hm : s.cfg.drainMode = .coop) : exec .drain s = .next (s.respond .control .mode 0) :=
  if_pos hm

theorem execDrain_of_stopped (hm : s.cfg.drainMode = .nb) (hp : s.pstate = .stopped) :
    exec .drain s = .next (s.respond .control .stopped 0) :=
  (if_neg (drainMode_ne_coop hm)).trans (if_pos hp)

/-- `s` with a DRAIN just accepted (R92). -/
def State.startDrain (s : State) : State := { s with pstate := .draining, drainN := 0, cpPending := true }

theorem execDrain_of_not_stopped (hm : s.cfg.drainMode = .nb) (hp : s.pstate ≠ .stopped) :
    exec .drain s = .next s.startDrain :=
  (if_neg (drainMode_ne_coop hm)).trans (if_neg hp)

theorem rspWord_ok_zero : rspWord .ok 0 = 0 := by decide

/-- A pump step in DRAINING that has a byte to feed takes it off the queue and stays in DRAINING (R93). -/
theorem State.pumpStep_keeps_draining (hr : s.RingOk) (hp : s.pstate = .draining) (hl : s.level ≠ 0) :
    s.pumpStep.pstate = .draining ∧ s.pumpStep.queue = s.queue.tail := by
  rw [State.pumpStep_of_draining_nonempty hp hl]
  refine ⟨(s.dropOldest.feed_pstate _).trans hp, ?_⟩
  rw [s.queue_dropOldest hr hl]
  exact s.dropOldest.queue_feed _

/-- After a PUSH the buffer is not empty: it was full, or holds the byte. -/
theorem State.level_pushByte_ne_zero (b : Byte) (h : s.RingOk) : (s.pushByte b).level ≠ 0 := by
  rw [← State.length_queue]
  have hcap := (Config.wf_bounds h.cfgWf).1
  rcases h.levelLe.lt_or_eq with hlt | hfull
  · rw [State.queue_pushByte_of_room b h hlt]
    simp
  · rw [State.queue_pushByte_of_full b hfull, State.length_queue]
    omega

/-- Settles O22: the three branches of DRAIN, the pump step that finds nothing to feed, and a PUSH under a DRAIN. -/
theorem drainStartsANonBlockingDrain : Obligations.DrainStartsANonBlockingDrain := by
  refine ⟨fun _ _ => decode_eq_instr_iff, fun _ => execDrain_of_coop, fun _ => execDrain_of_stopped,
    fun s hm hi => ⟨execDrain_of_not_stopped hm (by simp [hi]), fun hl => ?_⟩, fun s b hr hp hl => ?_⟩
  · refine congrArg Host.Outcome.next ((State.pumpStep_of_draining_empty (s := s.startDrain) rfl hl).trans ?_)
    rw [← hi, ← rspWord_ok_zero]
    rfl
  · have hqueue := State.queue_pushByte_of_room b hr (lt_of_le_of_ne hr.levelLe hl)
    have hpstate : (s.pushByte b).pstate = .draining := by rw [State.pushByte_of_room hl]; exact hp
    exact ⟨s.pushByte b, _, rfl, hqueue, rfl,
      State.pumpStep_keeps_draining (hr.pushByte b) hpstate (State.level_pushByte_ne_zero b hr)⟩

/-! ### TEARDOWN -/

/-- `s` with a TEARDOWN carried out and answered (R99). -/
def State.tornDown (s : State) : State := ((s.setPump .stopped).setDecoder .awaitSync 0).respond .control .ok 0

/-- The commands that R99 says answer STOPPED after a TEARDOWN. -/
theorem exec_of_stopped {i : Instr} (hp : s.pstate = .stopped)
    (hi : i = .pop ∨ (∃ b, i = .step b) ∨ i = .resync ∨ (i = .drain ∧ s.cfg.drainMode = .nb)) :
    exec i s = .next (s.respond .control .stopped 0) := by
  rcases hi with rfl | ⟨b, rfl⟩ | rfl | ⟨rfl, hm⟩
  · exact execPop_of_stopped hp
  · exact execStep_of_stopped hp
  · exact if_pos hp
  · exact execDrain_of_stopped hm hp

/-- The selectors 0, 1 and 2 each name a counter (R101). -/
theorem State.exists_counter {k : Byte} (s : State) (hk : k.toNat < 3) :
    ∃ n, s.counter (selectorOperand k) = some n := by
  obtain rfl | rfl | rfl : k = 0 ∨ k = 1 ∨ k = 2 := by
    have hval : k.toNat = 0 ∨ k.toNat = 1 ∨ k.toNat = 2 := by omega
    exact hval.imp BitVec.eq_of_toNat_eq (.imp BitVec.eq_of_toNat_eq BitVec.eq_of_toNat_eq)
  · exact ⟨s.ovfCnt, rfl⟩
  · exact ⟨s.oorCnt, rfl⟩
  · exact ⟨s.desyncCnt, rfl⟩

theorem execRdcnt_of_counter {k : Byte} {n : Word32} (h : s.counter (selectorOperand k) = some n) :
    exec (.rdcnt k) s = .next (s.respond .control .ok n) := by
  rw [exec, execRdcnt, h]

/-- Settles O24: what the torn-down state enables and answers, and that only reset leaves STOPPED. -/
theorem teardownStopsTheStreamUntilReset : Obligations.TeardownStopsTheStreamUntilReset := by
  refine ⟨fun _ _ => decode_eq_instr_iff, fun s hc => ?_, fun s => ⟨s.tornDown, rfl, rfl, rfl, rfl, rfl,
    fun i => exec_of_stopped (s := s.tornDown) rfl, fun b hl => ?_, fun n hn => ?_, fun k hk => ?_, ?_,
    fun l u v hl hu hf => ((fired_of_fire hf).stopped_or_reset hu).resolve_right hl⟩⟩
  · simp [Transition.enabled, hc]
  · refine ⟨_, rfl, ?_⟩
    rw [byteOperand, State.pushByte_of_room (s := s.tornDown) hl]
    exact ⟨rfl, rfl, rfl⟩
  · exact ⟨_, execGet_of_register hn, rfl⟩
  · obtain ⟨c, hcounter⟩ := s.tornDown.exists_counter hk
    exact ⟨_, _, execRdcnt_of_counter hcounter, rfl, rspStatus_rspWord .ok c⟩
  · exact ⟨_, _, rfl, rfl, rspStatus_rspWord .ok _⟩

end Sys2Proof.Machine
end

section
/-! How the pump of a COOP core leaves RUNNING and YIELDING (spec/44_pump.md R95 to R99). -/

namespace Sys2Proof.Machine

variable {s t : State} {w : Word16}

/-- PSTATE under a command: DRAIN may start a drain, in an NB core; TEARDOWN stops the pump; no other command writes
it. -/
theorem exec_pstate {i : Instr} (h : exec i s = .next t) :
    t.pstate = s.pstate ∨ (i = .drain ∧ s.cfg.drainMode = .nb) ∨ (i = .teardown ∧ t.pstate = .stopped) := by
  cases i with
  | push b => rcases execPush_cases h with ⟨-, rfl⟩ | ⟨-, rfl⟩ <;> exact .inl rfl
  | pop => exact .inl (by rw [execPop_frame h])
  | step b => exact .inl (by rw [execStep_frame h])
  | get n => rcases execGet_cases h with ⟨-, rfl⟩ | ⟨-, rfl⟩ <;> exact .inl rfl
  | drain =>
    rcases execDrain_cases h with ⟨-, rfl⟩ | ⟨-, -, rfl⟩ | ⟨hm, -, -⟩
    · exact .inl rfl
    · exact .inl rfl
    · exact .inr (.inl ⟨rfl, hm⟩)
  | resync => exact .inl (by rw [execResync_frame h])
  | teardown => exact .inr (.inr ⟨rfl, execTeardown_cases h ▸ rfl⟩)
  | rdcnt k => rcases execRdcnt_cases h with ⟨n, -, rfl⟩ | ⟨-, rfl⟩ <;> exact .inl rfl
  | rdstat => exact .inl (execRdstat_cases h ▸ rfl)

/-- In a COOP core the only word on the control port that changes PSTATE is TEARDOWN's, and it stops the pump. -/
theorem issue_control_pstate_of_coop (hm : s.cfg.drainMode = .coop) (h : issue .control w s = .next t) :
    t.pstate = s.pstate ∨ (w = 0x7000 ∧ t.pstate = .stopped) := by
  rcases issue_cases h with ⟨i, hd, he⟩ | ⟨why, -, rfl⟩
  · rcases exec_pstate he with hp | ⟨-, hnb⟩ | ⟨rfl, hp⟩
    · exact .inl hp
    · exact absurd hm (drainMode_ne_coop hnb)
    · exact .inr ⟨eq_encode_of_decode hd, hp⟩
  · exact .inl rfl

/-- A pump step never leaves the COOP pump's cycle (R95). -/
theorem State.pumpStep_keeps_cycle (hp : s.pstate = .running ∨ s.pstate = .yielding) :
    s.pumpStep.pstate = .running ∨ s.pumpStep.pstate = .yielding := by
  have hne : s.pstate ≠ .draining := by rcases hp with hp | hp <;> simp [hp]
  rcases s.pumpStep_cases with ⟨hd, -⟩ | ⟨hd, -⟩ | ⟨-, -, he⟩ | ⟨hr, -, he⟩ | ⟨-, he⟩
  · exact absurd hd hne
  · exact absurd hd hne
  · exact .inr (by rw [he, State.setPump_pstate])
  · exact .inl (by rw [he, State.feed_pstate]; exact hr)
  · rwa [he]

/-- Settles O53: each turn keeps the cycle, but the host's, if it issues TEARDOWN. -/
theorem coopPumpCyclesUntilTeardownOrReset : Obligations.CoopPumpCyclesUntilTeardownOrReset := by
  intro s t hm hp h
  rcases step_cases h with ⟨as, w, ws, -, -, hi⟩ | ⟨as, w, ws, ht, -, hw, hi⟩ | ⟨as, -, rfl⟩ | ⟨-, rfl⟩ |
    ⟨-, rfl⟩ | rfl
  · rw [(fired_of_issue_producer hi).producer_frame.1]
    exact .inl hp
  · rcases issue_control_pstate_of_coop (s := { s with turns := as, hostIn := ws }) hm hi with
      hsame | ⟨rfl, hstopped⟩
    · exact .inl (hsame ▸ hp)
    · exact .inr ⟨hstopped, by rw [ht, List.head?_cons], by rw [hw, List.head?_cons]⟩
  · exact .inl (.inl (congrArg PState.afterReset hm))
  · exact .inl (State.pumpStep_keeps_cycle hp)
  · exact .inl (.inl rfl)
  · exact .inl hp

end Sys2Proof.Machine
end

section
/-! DRAINs outstanding over many steps: fed before every pump step, and undisturbed (spec/44_pump.md R92 to R94). -/

namespace Sys2Proof.Machine

variable {s t u : State} {b : Byte} {k : Nat} {ws : List Word16} {as : List Agent}

/-- The pump's turn takes its step, where one is enabled. -/
theorem step_of_pump_turn (ht : s.turns = .pump :: as) (hp : s.pstate = .draining) :
    step s = .next (State.pumpStep { s with turns := as }) :=
  (step_of_turns_cons ht).trans (fireIfEnabled_of_enabled (Transition.enabled_pump_iff.mpr (.inl hp)))

/-- With no turn listed the pump takes its step, where one is enabled (assumption 4). -/
theorem step_of_no_turn (ht : s.turns = []) (hp : s.pstate = .draining) : step s = .next s.pumpStep :=
  (step_of_turns_nil ht).trans (if_pos (Transition.enabled_pump_iff.mpr (.inl hp)))

/-! ### A PUSH before every pump step -/

theorem State.pushByte_pump_fields (s : State) (b : Byte) :
    (s.pushByte b).pstate = s.pstate ∧ (s.pushByte b).drainN = s.drainN ∧ (s.pushByte b).turns = s.turns ∧
      (s.pushByte b).producerIn = s.producerIn := by
  rcases s.pushByte_cases b with ⟨-, he⟩ | ⟨-, he⟩ <;> rw [he] <;> exact ⟨rfl, rfl, rfl, rfl⟩

/-- A producer's turn that pushes a byte, then a pump step: the pump has a byte to feed, so the DRAIN goes on. -/
theorem run_push_pump (h : s.Inv) (hp : s.pstate = .draining) (hw : s.producerIn = encode (.push b) :: ws)
    (ht : s.turns = .producer :: .pump :: as) :
    ∃ t, (∀ k, run (k + 2) s = run k t) ∧ t.Inv ∧ t.pstate = .draining ∧ t.drainN = s.drainN + 1 ∧
      t.producerIn = ws ∧ t.turns = as := by
  set s₁ : State := { s with turns := .pump :: as, producerIn := ws }
  obtain ⟨hpstate, hdrainN, hturns, hwords⟩ := s₁.pushByte_pump_fields b
  have hstep₁ : step s = .next (s₁.pushByte b) :=
    (step_of_producer_turn ht hw).trans (issue_of_decode (decode_encode (.push b)))
  have hinv₁ : (s₁.pushByte b).Inv := everyStepKeepsTheCoreInvariant _ _ h hstep₁
  have hlevel : (s₁.pushByte b).level ≠ 0 := State.level_pushByte_ne_zero b (h.ring.congr rfl rfl rfl)
  have hstep₂ := step_of_pump_turn (s := s₁.pushByte b) hturns (hpstate.trans hp)
  refine ⟨_, fun k => (run_succ (k + 1) hstep₁).trans (run_succ k hstep₂),
    everyStepKeepsTheCoreInvariant _ _ hinv₁ hstep₂, ?_⟩
  rw [State.pumpStep_of_draining_nonempty (s := { s₁.pushByte b with turns := as }) (hpstate.trans hp) hlevel]
  refine ⟨?_, congrArg inc32 hdrainN, ?_, ?_⟩
  · exact (State.feed_pstate _ _).trans (hpstate.trans hp)
  · exact (State.feed_producerIn _ _).trans hwords
  · exact State.feed_turns _ _

/-- Settles O49, a PUSH and a pump step at a time. -/
theorem drainFedBeforeEveryPumpStepNeverCompletes : Obligations.DrainFedBeforeEveryPumpStepNeverCompletes := by
  intro n
  induction n with
  | zero =>
    intro s bs h hp _ _ _
    exact ⟨s, rfl, hp, h.pendingIff.mpr hp, (BitVec.add_zero _).symm⟩
  | succ n ih =>
    intro s bs h hp hlen hw ht
    obtain ⟨b, bs, rfl⟩ := List.exists_cons_of_length_eq_add_one hlen
    obtain ⟨t, hrun, htinv, htp, htn, htw, htt⟩ := run_push_pump h hp hw ht
    obtain ⟨u, hurun, hup, huc, hun⟩ := ih t bs htinv htp (by simpa using hlen) htw htt
    refine ⟨u, (hrun (2 * n)).trans hurun, hup, huc, ?_⟩
    rw [hun, htn, BitVec.add_assoc, Nat.add_comm n 1, BitVec.ofNat_add]
    rfl

/-! ### A DRAIN that nothing disturbs -/

theorem core_run_succ_last (M : Host.Core) {k : Nat} {s u : M.State} (h : M.run k s = .next u) :
    M.run (k + 1) s = M.step u := by
  induction k generalizing s with
  | zero =>
    cases h
    rw [Host.Core.run]
    cases M.step u <;> rfl
  | succ k ih =>
    obtain ⟨v, hstep, hrun⟩ := core_run_succ_cases M h
    rw [core_run_succ M (k + 1) s v hstep, ih hrun]

/-- A run of one step more is the run and then a step. -/
theorem run_succ_last (h : run k s = .next u) : run (k + 1) s = step u := core_run_succ_last core h

/-- What the decoder holds once every buffered byte has been fed. -/
def State.drainedView (s : State) : DecoderView := (s.feedAll s.queue).decoderView

/-- A pump step in DRAINING that has a byte to feed changes nothing of what the decoder will hold: the byte is the
oldest of the queue. -/
theorem State.drainedView_pumpStep (hr : s.RingOk) (hp : s.pstate = .draining) (hl : s.level ≠ 0) :
    s.pumpStep.drainedView = s.drainedView := by
  rw [State.drainedView, State.drainedView, (State.pumpStep_keeps_draining hr hp hl).2, s.queue_dropOldest hr hl,
    State.pumpStep_of_draining_nonempty hp hl]
  exact State.feedAll_decoderView_congr _ _ _ (by simp) (s.decoderView_feed_dropOldest _)

/-- `t` is what an undisturbed DRAIN issued in `s` has come to when it has fed `k` bytes. -/
structure State.DrainsTo (s : State) (k : Nat) (t : State) : Prop where
  inv       : t.Inv
  draining  : t.pstate = .draining
  noTurn    : t.turns = []
  level     : t.level + k = s.level
  drainN    : t.drainN = BitVec.ofNat 32 k
  view      : t.drainedView = s.drainedView
  ovfCnt    : t.ovfCnt = s.ovfCnt
  responses : t.responses = s.responses

/-- One more byte is fed while the buffer holds one. -/
theorem State.DrainsTo.pumpStep (h : s.DrainsTo k t) (hk : k < s.level) : s.DrainsTo (k + 1) t.pumpStep := by
  have hlevel := h.level
  have hl : t.level ≠ 0 := by omega
  have hr := h.inv.ring
  have hinv := everyStepKeepsTheCoreInvariant _ _ h.inv (step_of_no_turn h.noTurn h.draining)
  have hview := (State.drainedView_pumpStep hr h.draining hl).trans h.view
  obtain ⟨hp, hq⟩ := State.pumpStep_keeps_draining hr h.draining hl
  have hlen : t.pumpStep.level = t.level - 1 := by
    rw [← State.length_queue, hq, List.length_tail, State.length_queue]
  have hpump := State.pumpStep_of_draining_nonempty h.draining hl
  refine ⟨hinv, hp, ?_, by omega, ?_, hview, ?_, ?_⟩ <;> rw [hpump]
  · exact (State.feed_turns _ _).trans h.noTurn
  · exact (congrArg inc32 h.drainN).trans (BitVec.ofNat_add k 1).symm
  · exact (State.feed_ovfCnt _ _).trans h.ovfCnt
  · exact (State.feed_responses _ _).trans h.responses

/-- The host's turn issues the DRAIN, and then each step feeds a byte while there is one. -/
theorem exists_run_drainsTo (h : s.Inv) (hm : s.cfg.drainMode = .nb) (hi : s.pstate = .idle) (ht : s.turns = [.host])
    (hw : s.hostIn = 0x5000 :: ws) (hk : k ≤ s.level) : ∃ t, run (k + 1) s = .next t ∧ s.DrainsTo k t := by
  induction k with
  | zero =>
    have hc : s.cpPending = false := by simpa [hi] using h.pendingIff
    have hstep : step s = .next (State.startDrain { s with turns := [], hostIn := ws }) := by
      rw [step_of_host_turn ht hc hw]
      exact (issue_of_decode (decode_encode .drain)).trans (execDrain_of_not_stopped hm (by simp [hi]))
    refine ⟨_, run_succ 0 hstep, everyStepKeepsTheCoreInvariant _ _ h hstep, rfl, rfl, rfl, rfl, ?_, rfl, rfl⟩
    exact State.feedAll_decoderView_congr _ _ _ rfl rfl
  | succ k ih =>
    obtain ⟨t, hrun, hd⟩ := ih (by omega)
    exact ⟨_, (run_succ_last hrun).trans (step_of_no_turn hd.noTurn hd.draining), hd.pumpStep hk⟩

/-- Settles O48: LEVEL bytes are fed, and the pump step after them finds the buffer empty. -/
theorem undisturbedDrainFeedsTheWholeQueueInOrder : Obligations.UndisturbedDrainFeedsTheWholeQueueInOrder := by
  intro s ws h hm hi ht hw
  have hrun : ∀ {k}, k ≤ s.level → ∃ t, run (k + 1) s = .next t ∧ s.DrainsTo k t :=
    exists_run_drainsTo h hm hi ht hw
  refine ⟨fun k hpos hk => ?_, ?_⟩
  · obtain ⟨j, rfl⟩ := Nat.exists_eq_add_of_le' hpos
    obtain ⟨t, htrun, hd⟩ := hrun (by omega : j ≤ s.level)
    exact ⟨t, htrun, hd.inv.pendingIff.mpr hd.draining⟩
  · obtain ⟨t, htrun, hd⟩ := hrun le_rfl
    have hempty : t.level = 0 := by have := hd.level; omega
    have hq : t.queue = [] := t.queue_eq_nil_iff.mpr hempty
    have hview : t.drainedView = t.decoderView := by rw [State.drainedView, hq]; rfl
    refine ⟨t.pumpStep, (run_succ_last htrun).trans (step_of_no_turn hd.noTurn hd.draining), ?_⟩
    rw [State.pumpStep_of_draining_empty hd.draining hempty]
    refine ⟨hview.symm.trans hd.view, (State.queue_respond _ _ _ _).trans hq, rfl, rfl, hd.ovfCnt, ?_⟩
    rw [← hd.responses, ← hd.drainN]
    rfl

end Sys2Proof.Machine
end

section
/-! RDCNT on each side of selector 3 (spec/45_diagnostics.md R101). -/

namespace Sys2Proof.Machine

variable {s : State} {k : Byte}

theorem selectorOperand_toNat (k : Byte) : (selectorOperand k).toNat = k.toNat :=
  BitVec.toNat_setWidth_of_le (b := k) (by decide : 8 ≤ 32)

/-- A selector of 3 or more names no counter (R101). -/
theorem State.counter_eq_none (s : State) (hk : 3 ≤ k.toNat) : s.counter (selectorOperand k) = none := by
  have hne : ∀ m : Word32, m.toNat < 3 → selectorOperand k ≠ m := by
    rintro m hm rfl
    rw [selectorOperand_toNat] at hm
    omega
  rw [State.counter, if_neg (hne 0 (by decide)), if_neg (hne 1 (by decide)), if_neg (hne 2 (by decide))]

theorem execRdcnt_of_no_counter (h : s.counter (selectorOperand k) = none) :
    exec (.rdcnt k) s = .next (s.respond .control .notFound 0) := by
  rw [exec, execRdcnt, h]

/-- Settles O25: the word of RDCNT, the counter each of the selectors 0, 1 and 2 names, and no counter from 3 up. -/
theorem rdcntReadsTheSelectedCounter : Obligations.RdcntReadsTheSelectedCounter := by
  refine fun k => ⟨fun p w => ?_, ?_, ?_, ?_, fun s hk => execRdcnt_of_no_counter (s.counter_eq_none hk)⟩
  · rw [decode_eq_instr_iff, encode_eq_or]
    rfl
  · rintro s rfl
    exact execRdcnt_of_counter (n := s.ovfCnt) rfl
  · rintro s rfl
    exact execRdcnt_of_counter (n := s.oorCnt) rfl
  · rintro s rfl
    exact execRdcnt_of_counter (n := s.desyncCnt) rfl

end Sys2Proof.Machine
end

section
/-! No condition is fatal: every transition, every turn and every step answers a next state (spec/60_exceptions.md
R103). -/

namespace Sys2Proof.Machine

theorem exists_fire_eq_next (l : Transition) (s : State) : ∃ t, fire l s = .next t := by
  cases l with
  | producer w => exact exists_issue_eq_next .producer w s
  | control w => exact exists_issue_eq_next .control w s
  | pump | yieldDone | reset => exact ⟨_, rfl⟩

theorem exists_fireIfEnabled_eq_next (l : Transition) (s : State) : ∃ t, fireIfEnabled l s = .next t := by
  unfold fireIfEnabled
  split
  · exact exists_fire_eq_next l s
  · exact ⟨s, rfl⟩

theorem exists_producerTurn_eq_next (s : State) : ∃ t, producerTurn s = .next t := by
  unfold producerTurn
  split
  · exact ⟨s, rfl⟩
  · exact exists_fire_eq_next _ _

theorem exists_hostTurn_eq_next (s : State) : ∃ t, hostTurn s = .next t := by
  unfold hostTurn
  split
  · exact ⟨s, rfl⟩
  · split
    · exact ⟨s, rfl⟩
    · exact exists_fire_eq_next _ _

theorem exists_takeTurn_eq_next (a : Agent) (s : State) : ∃ t, takeTurn a s = .next t := by
  cases a with
  | producer => exact exists_producerTurn_eq_next s
  | host => exact exists_hostTurn_eq_next s
  | pump => exact exists_fireIfEnabled_eq_next .pump s
  | scheduler => exact exists_fireIfEnabled_eq_next .yieldDone s
  | reset => exact exists_fire_eq_next .reset s

theorem exists_openTurn_eq_next (s : State) : ∃ t, openTurn s = .next t := by
  unfold openTurn
  split
  · exact exists_fire_eq_next .pump s
  · exact exists_fireIfEnabled_eq_next .yieldDone s

theorem exists_step_eq_next (s : State) : ∃ t, step s = .next t := by
  cases ht : s.turns with
  | nil =>
    rw [step_of_turns_nil ht]
    exact exists_openTurn_eq_next s
  | cons a as =>
    rw [step_of_turns_cons ht]
    exact exists_takeTurn_eq_next a _

/-- Settles O9: a step is the turn of an agent or the open turn, and each of these answers a next state. -/
theorem noConditionStopsTheCore : Obligations.NoConditionStopsTheCore :=
  ⟨exists_step_eq_next, exists_exec_eq_next⟩

end Sys2Proof.Machine
end

section
/-! A command that is refused changes nothing but PUSH's overflow counter (spec/60_exceptions.md R108). -/

namespace Sys2Proof.Machine

variable {s t : State} {i : Instr}

/-- A command takes a transition of its own port, and the producer's are PUSH's. -/
theorem fired_of_exec (h : exec i s = .next t) :
    ∃ l, Fired s l t ∧ ((∃ w, l = .producer w) → ∃ b, i = .push b) := by
  have hd := decode_encode i
  have hissue := (issue_of_decode hd).trans h
  cases hp : i.port with
  | producer =>
    rw [hp] at hd hissue
    exact ⟨_, fired_of_issue_producer hissue, fun _ => push_of_decode_producer hd⟩
  | control =>
    rw [hp] at hissue
    exact ⟨_, fired_of_issue_control hissue, nofun⟩

theorem rspStatus_eq_ok_of_cons_eq {r : Response} {p : Port} {d : Word32} {rs : List Response}
    (h : ⟨p, rspWord .ok d⟩ :: rs = r :: rs) : rspStatus r.word = 0x00 := by
  obtain ⟨rfl, -⟩ := List.cons.inj h
  exact rspStatus_rspWord .ok d

/-- A transition whose response is not OK only answers, or is a word of the producer that also counts an overflow. -/
theorem Fired.refused_cases {l : Transition} {r : Response} (hf : Fired s l t)
    (hr : t.responses = r :: s.responses) (hst : rspStatus r.word ≠ 0x00) :
    t = { s with responses := r :: s.responses } ∨
    ((∃ w, l = .producer w) ∧ t = { s with ovfCnt := s.ovfCnt + 1, responses := r :: s.responses }) := by
  rw [← hr]
  cases hf with
  | pushIllegal | answered => exact .inl rfl
  | pushFull w => exact .inr ⟨⟨w, rfl⟩, rfl⟩
  | pushStored | popped | resynced | tornDown | drainDone => exact absurd (rspStatus_eq_ok_of_cons_eq hr) hst
  | stepped w b =>
    rw [State.respond_responses, State.feed_responses] at hr
    exact absurd (rspStatus_eq_ok_of_cons_eq hr) hst
  | drainFed | taskFed => exact absurd (hr.symm.trans (State.feed_responses _ _)) (List.cons_ne_self _ _)
  | drainStarted | taskYielded | pumpPassed | taskResumed | schedulerPassed | reset =>
    exact absurd hr.symm (List.cons_ne_self _ _)

/-- Settles O55: the transition a command takes, refused; it is the producer's for PUSH alone. -/
theorem aRefusedCommandChangesNothing : Obligations.ARefusedCommandChangesNothing := by
  intro i s t r h hr hst
  obtain ⟨l, hf, hpush⟩ := fired_of_exec h
  exact (hf.refused_cases hr hst).imp_right fun ⟨hl, ht⟩ => ⟨hpush hl, ht⟩

end Sys2Proof.Machine
end

section
/-! The order in which a command's statuses apply, and the one event of the byte that completes a frame
(spec/60_exceptions.md R105). -/

namespace Sys2Proof.Machine

variable {s t : State} {i : Instr}

/-- The commands that R105 says never report BUSY, STOPPED or MODE: every status listed for them lies below BUSY. -/
theorem rspStatus_lt_busy {r : Response} (h : exec i s = .next t) (hr : t.responses = r :: s.responses)
    (hi : (∃ b, i = .push b) ∨ (∃ n, i = .get n) ∨ (∃ k, i = .rdcnt k) ∨ i = .rdstat ∨ i = .teardown) :
    (rspStatus r.word).toNat < 5 := by
  have hmem := eachCommandReportsOnlyItsStatuses.1 i s t r h hr
  rcases hi with ⟨b, rfl⟩ | ⟨n, rfl⟩ | ⟨k, rfl⟩ | rfl | rfl <;>
    simp only [List.mem_cons, List.not_mem_nil, or_false] at hmem <;> omega

theorem exec_of_task (hp : s.pstate = .running ∨ s.pstate = .yielding) (hi : i = .pop ∨ ∃ b, i = .step b) :
    exec i s = .next (s.respond .control .busy 0) := by
  rcases hi with rfl | ⟨b, rfl⟩
  · exact execPop_of_task hp
  · exact execStep_of_task hp

theorem execResync_of_not_stopped (hp : s.pstate ≠ .stopped) :
    exec .resync s = .next ((s.setDecoder .awaitSync 0).respond .control .ok 0) :=
  if_neg hp

/-! ### The event of a byte -/

variable {pol : SyncPolicy} {stage : Stage} {acc : Word32} {b : Byte}

/-- The byte that completes a frame: an EMIT of the pending index where it names a register, else an OUT_OF_RANGE. -/
theorem decodeStep_readLow_event (h : ¬ (pol = .resync ∧ b = syncByte)) :
    ((acc.extractLsb' 16 8).toNat ≤ 15 ∧
      ∃ v, (decodeStep pol .readLow acc b).2.2 = .emit (acc.extractLsb' 16 8) v) ∨
    (16 ≤ (acc.extractLsb' 16 8).toNat ∧
      (decodeStep pol .readLow acc b).2.2 = .outOfRange (acc.extractLsb' 16 8)) := by
  rw [decodeStep_readLow pol acc b h, completeFrame_accWithLow]
  by_cases hidx : (acc.extractLsb' 16 8).toNat ≤ 15
  · exact .inl ⟨hidx, _, if_pos hidx⟩
  · exact .inr ⟨by omega, if_neg hidx⟩

/-- Every byte that completes no frame has one of the three events that name no index. -/
theorem decodeStep_event_of_incomplete (h : stage ≠ .readLow ∨ (pol = .resync ∧ b = syncByte)) :
    (decodeStep pol stage acc b).2.2 = .none ∨ (decodeStep pol stage acc b).2.2 = .discard ∨
    (decodeStep pol stage acc b).2.2 = .restart := by
  rcases decodeStep_cases pol stage acc b with ⟨-, -, hd⟩ | ⟨-, -, hd⟩ | ⟨-, -, hd⟩ | ⟨-, -, hd⟩ | ⟨-, -, hd⟩ |
    ⟨hs, hb, -⟩
  · exact .inl (by rw [hd])
  · exact .inr (.inl (by rw [hd]))
  · exact .inr (.inr (by rw [hd]))
  · exact .inl (by rw [hd])
  · exact .inl (by rw [hd])
  · rcases h with h | h
    · exact absurd hs h
    · exact absurd h hb

/-- Settles O54: one equation of `exec` for each status a command can report, then the events. -/
theorem statusesAreReportedInTheirPriority : Obligations.StatusesAreReportedInTheirPriority := by
  refine ⟨fun _ _ _ _ => issue_of_illegal, fun _ => execDrain_of_coop, fun _ _ => exec_of_stopped,
    fun _ _ => exec_of_task, fun s hi hl => ?popEmpty, fun b s hl => ?pushFull, fun _ _ => execGet_of_no_register,
    fun _ s hk => execRdcnt_of_no_counter (s.counter_eq_none hk), fun _ _ _ _ => rspStatus_lt_busy,
    fun b s hl => ?pushRoom, fun s hi hl => ?popByte, fun b s hi => ?step,
    fun _ _ hn => ⟨_, execGet_of_register hn⟩, fun _ s hk => (s.exists_counter hk).imp fun _ => execRdcnt_of_counter,
    fun s => ⟨s.statusWord, rfl⟩, fun _ hp => ⟨_, execResync_of_not_stopped hp, rfl⟩,
    fun s => ⟨s.tornDown, rfl, rfl⟩, fun s hm hi => ?drain, fun s hp hl => ?drained,
    fun pol stage acc b => ⟨?complete, fun h => ?incomplete⟩⟩
  case popEmpty => rw [execPop_of_idle hi, State.popByte_of_empty hl]
  case pushFull => exact ⟨_, congrArg Host.Outcome.next (State.pushByte_of_full hl), rfl⟩
  case pushRoom => exact ⟨_, congrArg Host.Outcome.next (State.pushByte_of_room hl), rfl⟩
  case popByte => exact ⟨_, _, execPop_of_idle hi, by rw [State.popByte_of_nonempty hl]; rfl⟩
  case step => exact ⟨_, (s.feedEvent b).word, execStep_of_idle hi, congrArg (List.cons _) (s.feed_responses b)⟩
  case drain => exact ⟨s.startDrain, execDrain_of_not_stopped hm (by simp [hi]), rfl, rfl⟩
  case drained => exact ⟨_, congrArg Host.Outcome.next (State.pumpStep_of_draining_empty hp hl), rfl⟩
  case complete =>
    rintro rfl
    exact decodeStep_readLow_event
  case incomplete =>
    rcases decodeStep_event_of_incomplete (acc := acc) h with he | he | he <;> rw [he] <;> exact ⟨nofun, nofun⟩

end Sys2Proof.Machine
end

section
/-! The reset transition (spec/70_reset_and_hazards.md R116): its elements are those of the state after reset, and a byte
pushed before it is lost where one pushed after it begins the new queue. -/

namespace Sys2Proof.Machine

variable (s : State)

@[simp] theorem State.level_resetElements : s.resetElements.level = 0 := State.level_resetOf s.cfg

@[simp] theorem State.queue_resetElements : s.resetElements.queue = [] :=
  s.resetElements.queue_eq_nil_iff.mpr s.level_resetElements

@[simp] theorem State.channel_resetElements (i : Byte) : s.resetElements.channel i = 0 := State.channel_resetOf s.cfg i

variable {s}

theorem State.RingOk.resetElements (hc : s.cfg.wf = true) : s.resetElements.RingOk :=
  (State.RingOk.resetOf hc).congr rfl rfl rfl

/-- In an admitted configuration CAP is at least 1, so the first PUSH after a reset finds room. -/
theorem State.queue_pushByte_resetElements (hc : s.cfg.wf = true) (b : Byte) :
    (s.resetElements.pushByte b).queue = [b] := by
  have hroom : s.resetElements.level < s.resetElements.cfg.cap := by
    rw [State.level_resetElements]
    exact (Config.wf_bounds hc).1
  rw [State.queue_pushByte_of_room b (State.RingOk.resetElements hc) hroom, State.queue_resetElements, List.nil_append]

/-- Settles O13: reset is never disabled, and it answers `State.resetElements`, whatever a PUSH did before it. -/
theorem resetTransitionSetsEveryElement : Obligations.ResetTransitionSetsEveryElement := by
  intro s
  have hp : s.resetElements.pstate = .afterReset s.cfg.drainMode := rfl
  have hlost (b : Byte) (u : State) (_ : exec (.push b) s = .next u) : ∃ v, fire .reset u = .next v ∧ v.queue = [] :=
    ⟨_, rfl, u.queue_resetElements⟩
  have hfirst (hc : s.cfg.wf = true) (b : Byte) : ∃ u, exec (.push b) s.resetElements = .next u ∧ u.queue = [b] :=
    ⟨_, rfl, State.queue_pushByte_resetElements hc b⟩
  exact ⟨rfl, s.resetElements, rfl, rfl, rfl, rfl, rfl, s.queue_resetElements, rfl, rfl, s.channel_resetElements,
    rfl, rfl, rfl, fun hm => by rw [hp, hm]; rfl, fun hm => by rw [hp, hm]; rfl, rfl, rfl, rfl, hlost, hfirst⟩

end Sys2Proof.Machine
end
